-- ==== Sys2Proof/Word.lean ====
section
/-! DEFINITION. The two sizes of data the CORE handles (spec/00_scope.md R5, R9): words of 32 bits and bytes. -/

namespace Sys2Proof

/-- A word, an unsigned integer in [0, 2^32) (R9). -/
abbrev Word := BitVec 32

/-- A byte (R9). -/
abbrev Byte := BitVec 8

/-- The state matrix, 16 words indexed row-major (R21). -/
abbrev StateMatrix := Vector Word 16

end Sys2Proof
end

