-- ==== Sys2Proof/Syntax.lean ====
section
/-! DEFINITION. The sequencer positions and the one inductive of instructions: the six host commands with their
operands (spec/30_encoding.md R75, R76) and the twelve micro-operations (R80). -/

namespace Sys2Proof

/-- SEQ, the sequencer position (spec/10_state.md R30). Only the reachable values exist (R80, U5): ITER and SLOT
are 0 outside ROUND. -/
inductive Seq where
  | idle
  | inject
  | round (iter : Fin 10) (slot : Fin 8)
  | feedfwd
  | emit
  | xorchunk
  deriving DecidableEq, Repr

/-- One constructor per row of spec/opcode_table.json. A quarter-round micro-operation carries the ITER field of the
SEQ value that selects it (R80): the mask 0x387 ignores it in the selection, the advance of R140 reads it. -/
inductive Instr where
  /-- R171. -/
  | reset
  /-- R172. -/
  | status
  /-- R173, the 32 key bytes. -/
  | loadkey (key : Vector Byte 32)
  /-- R174, the 12 nonce bytes. -/
  | loadnonce (nonce : Vector Byte 12)
  /-- R175, the block counter. -/
  | block (ctr : Word)
  /-- R176, the start counter and the data; LEN is the length of the data (R82). -/
  | process (ctr : Word) (data : List Byte)
  /-- R139. -/
  | inject
  /-- R114. -/
  | qr0 (iter : Fin 10)
  /-- R115. -/
  | qr1 (iter : Fin 10)
  /-- R116. -/
  | qr2 (iter : Fin 10)
  /-- R117. -/
  | qr3 (iter : Fin 10)
  /-- R118. -/
  | qr4 (iter : Fin 10)
  /-- R119. -/
  | qr5 (iter : Fin 10)
  /-- R120. -/
  | qr6 (iter : Fin 10)
  /-- R121. -/
  | qr7 (iter : Fin 10)
  /-- R141. -/
  | feedfwd
  /-- R142. -/
  | emit
  /-- R161. -/
  | xorchunk
  deriving DecidableEq, Repr

/-- What selects an instruction: the bytes of a host command (R74) or a 10-bit SEQ value (R80). -/
inductive Code where
  | bytes (bs : List Byte)
  | seq (w : BitVec 10)
  deriving DecidableEq, Repr

/-- The decoder's three answers on the bytes that have arrived (R78): a command and the bytes after it, an illegal
opcode byte (consumed alone) and the bytes after it, or nothing consumed. -/
inductive Decoded where
  | command (i : Instr) (rest : List Byte)
  | illegal (opcode : Byte) (rest : List Byte)
  | incomplete
  deriving DecidableEq, Repr

/-- What a 10-bit SEQ value selects (R80): nothing in IDLE, a micro-operation, or it is one of the values no run
reaches (U5). -/
inductive SeqDecoded where
  | idle
  | micro (i : Instr)
  | unreachable (w : BitVec 10)
  deriving DecidableEq, Repr

end Sys2Proof
end

