-- ==== Sys2Proof/Machine/State.lean ====
section
/-! DEFINITION. The state of the CORE (spec/10_state.md R20), its reset value (R39), and the reasons a step can stop. -/

namespace Sys2Proof.Machine

/-- MODE (R20): the command in flight, 0 = BLOCK, 1 = PROCESS. -/
inductive Mode where
  | block
  | process
  deriving DecidableEq, Repr

/-- The complete state (R20). CONST is hardwired (R23, R36) and STATUS is a view (R33), so neither is a field.
The last three fields are the model's own: the host's channels (log entries 4 and 5). -/
structure State where
  /-- KEY[0..7] (R24). -/
  key : Vector Word 8
  /-- NONCE[0..2] (R25). -/
  nonce : Vector Word 3
  /-- KEYV (R31). -/
  keyv : Bool
  /-- NONCEV (R31). -/
  noncev : Bool
  /-- FAULT (R32). -/
  fault : BitVec 4
  /-- X[0..15], the working matrix (R21). -/
  x : StateMatrix
  /-- J, the block counter of the block in flight (R29). -/
  j : Word
  /-- SEQ (R30). -/
  seq : Seq
  /-- MODE (R20). -/
  mode : Mode
  /-- START (R20). -/
  start : Word
  /-- NCHUNKS, 33 bits (R20). -/
  nchunks : BitVec 33
  /-- CI, 33 bits (R20). -/
  ci : BitVec 33
  /-- KS[0..63] (R20). -/
  ks : Vector Byte 64
  /-- DBUF (R20). -/
  dbuf : List Byte
  /-- OBUF (R20). -/
  obuf : List Byte
  /-- The command bytes that have arrived and are not consumed (R78). -/
  cmd : List Byte
  /-- The response stream sent so far (R79). -/
  rsp : List Byte
  /-- The host asserts hardware reset (R177). -/
  hwReset : Bool
  deriving DecidableEq, Repr

/-- No step of this machine ends in a fault: the CORE's own faults (R220) are next states, by fault entry (R228) or the
Faulted answer (R224); R225: no micro-operation can fault; the SEQ values no run reaches do not exist (R80, U5). -/
inductive Fault where
  deriving DecidableEq, Repr

/-- Why an instruction has no meaning in the model. -/
inductive Refusal where
  /-- Raised by an arm of exec whose instruction is not modelled; safe. No arm raises it. -/
  | notModelled (mnemonic : String)
  deriving DecidableEq, Repr

/-- The state after reset: every value of R39, and the host's channels empty and quiet. -/
def State.reset : State where
  key := Vector.replicate 8 0
  nonce := Vector.replicate 3 0
  keyv := false
  noncev := false
  fault := 0
  x := Vector.replicate 16 0
  j := 0
  seq := .idle
  mode := .block
  start := 0
  nchunks := 0
  ci := 0
  ks := Vector.replicate 64 0
  dbuf := []
  obuf := []
  cmd := []
  rsp := []
  hwReset := false

end Sys2Proof.Machine
end

