-- ==== Sys2Proof/Config.lean ====
section
/-! DEFINITION. What an instance of the hardware fixes (spec/00_scope.md R5, R6) and the values the spec leaves open.

The widths of R5 stand in the types: W = 32 (Word), NWORDS = 16 (StateMatrix), KEYBYTES = 32, NONCEBYTES = 12,
BLOCKBYTES = 64, CTRBITS = 32; NSLOTS = 8 is the domain of Machine.slotGroup and ROT = 16, 12, 8, 7 stands in Machine.qr. -/

namespace Sys2Proof.Config

/-- NITER, double-round iterations of a block (R5, R132). -/
def nIter : Nat := 10

/-- MAXBYTES, the most bytes one (key, nonce) pair covers from counter 0 (R5, R157). -/
def maxBytes : Nat := 2 ^ 38

/-- P_GRANULARITY (R6, D1): the level a model steps at. -/
inductive Granularity where
  | command
  | microstep
  deriving DecidableEq, Repr

/-- Free value: what the 32-bit latch J takes when START + CI is 2^32 or more, a sum the acceptance check of R154
excludes and R139 gives no result for (DESIGN CHOICE, log entry 8). -/
opaque freeCounter : Word → Nat → Word

/-- Free value: what the 33-bit register CI takes when CI + 1 does not fit, a value R20's range excludes
(DESIGN CHOICE, log entry 9). -/
opaque freeChunkIndex : BitVec 33 → BitVec 33

end Sys2Proof.Config
end

