-- ==== Sys2Proof/Machine/Operands.lean ====
section
/-! DEFINITION. Operand forms: byte order (spec/20_memory.md R54, R55), key, nonce and counter formats
(spec/30_encoding.md R70 to R72), the data offset space and its chunks (R52). -/

namespace Sys2Proof.Machine

/-- LE32 (R55): byte 0 least significant. -/
def le32 (b0 b1 b2 b3 : Byte) : Word :=
  BitVec.ofNat 32 (b0.toNat + 256 * b1.toNat + 65536 * b2.toNat + 16777216 * b3.toNat)

/-- Byte j of a word, (v >> 8j) mod 256 (R53, R55). -/
def byteAt (v : Word) (j : Nat) : Byte := (v >>> (8 * j)).setWidth 8

/-- BYTES32 (R55). -/
def bytes32 (v : Word) : List Byte := [byteAt v 0, byteAt v 1, byteAt v 2, byteAt v 3]

/-- The unsigned integer of a little-endian byte string (R56, the LEN field). -/
def leNat : List Byte → Nat
  | [] => 0
  | b :: bs => b.toNat + 256 * leNat bs

/-- The `count` little-endian bytes of n (R75). -/
def leBytes : (count n : Nat) → List Byte
  | 0, _ => []
  | count + 1, n => BitVec.ofNat 8 n :: leBytes count (n / 256)

/-- KEY[0..7] from the 32 key bytes (R70). -/
def keyWords (k : Vector Byte 32) : Vector Word 8 :=
  Vector.ofFn fun i => le32 k[4 * i.val] k[4 * i.val + 1] k[4 * i.val + 2] k[4 * i.val + 3]

/-- NONCE[0..2] from the 12 nonce bytes (R71). -/
def nonceWords (n : Vector Byte 12) : Vector Word 3 :=
  Vector.ofFn fun i => le32 n[4 * i.val] n[4 * i.val + 1] n[4 * i.val + 2] n[4 * i.val + 3]

/-- NCHUNKS = ceil(LEN / 64) (R52, R151). -/
def chunkCount (len : Nat) : Nat := (len + 63) / 64

/-- The length of chunk i, min(64, LEN - 64 i) (R52, R161). -/
def chunkLen (len i : Nat) : Nat := min 64 (len - 64 * i)

/-- MemRead(k, 1) = DBUF[k] (R52); none where the data offset space has no byte k. -/
def memRead (dbuf : List Byte) (k : Nat) : Option Byte := dbuf[k]?

/-- MemWrite(k, 1, v): OBUF[k] <- v (R52). -/
def memWrite (obuf : List Byte) (k : Nat) (v : Byte) : List Byte := obuf.set k v

end Sys2Proof.Machine
end

