-- ==== Sys2Proof/Machine/WordOps.lean ====
section
/-! DEFINITION. The three word operations of the datapath (spec/40_word_ops.md R100 to R103). -/

namespace Sys2Proof.Machine

/-- ADD32, (a + b) mod 2^32 (R100). -/
def add32 (a b : Word) : Word := BitVec.ofNat 32 (a.toNat + b.toNat)

/-- XOR32 (R101). -/
def xor32 (a b : Word) : Word := a ^^^ b

/-- ROTL32, ((x << n) | (x >> (32 - n))) mod 2^32 (R102). The hardware uses 16, 12, 8 and 7 only (R103); outside
1..31 this is the formula extended (DESIGN CHOICE, log entry 15). -/
def rotl32 (x : Word) (n : Nat) : Word := (x <<< n) ||| (x >>> (32 - n))

/-- XOR of bytes, used by XORCHUNK (R101). -/
def xor8 (a b : Byte) : Byte := a ^^^ b

end Sys2Proof.Machine
end

