-- ==== Sys2Proof/Machine/QuarterRound.lean ====
section
/-! DEFINITION. Function level: the quarter-round, its inverse, the index groups and the rounds
(spec/41_quarter_round.md R110 to R124). -/

namespace Sys2Proof.Machine

/-- QR (R110), the twelve assignments in order. -/
def qr (a b c d : Word) : Word × Word × Word × Word :=
  let a := add32 a b
  let d := xor32 d a
  let d := rotl32 d 16
  let c := add32 c d
  let b := xor32 b c
  let b := rotl32 b 12
  let a := add32 a b
  let d := xor32 d a
  let d := rotl32 d 8
  let c := add32 c d
  let b := xor32 b c
  let b := rotl32 b 7
  (a, b, c, d)

/-- (c + 2^32 - d) mod 2^32, the inverse of an ADD32 (R104). -/
def sub32 (c d : Word) : Word := BitVec.ofNat 32 (c.toNat + 2 ^ 32 - d.toNat)

/-- The inverse of QR (R111). The hardware never computes it. -/
def qrInverse (a b c d : Word) : Word × Word × Word × Word :=
  let b := rotl32 b 25
  let b := xor32 b c
  let c := sub32 c d
  let d := rotl32 d 24
  let d := xor32 d a
  let a := sub32 a b
  let b := rotl32 b 20
  let b := xor32 b c
  let c := sub32 c d
  let d := rotl32 d 16
  let d := xor32 d a
  let a := sub32 a b
  (a, b, c, d)

/-- Four matrix indices in operand order a, b, c, d (R112). -/
structure Group where
  ia : Fin 16
  ib : Fin 16
  ic : Fin 16
  id : Fin 16
  deriving DecidableEq, Repr

/-- The eight index groups, as the literals of R113. -/
def slotGroup (slot : Fin 8) : Group :=
  match slot with
  | 0 => ⟨0, 4, 8, 12⟩
  | 1 => ⟨1, 5, 9, 13⟩
  | 2 => ⟨2, 6, 10, 14⟩
  | 3 => ⟨3, 7, 11, 15⟩
  | 4 => ⟨0, 5, 10, 15⟩
  | 5 => ⟨1, 6, 11, 12⟩
  | 6 => ⟨2, 7, 8, 13⟩
  | 7 => ⟨3, 4, 9, 14⟩

/-- QRX (R112): the quarter-round on four words of a matrix. -/
def qrx (m : StateMatrix) (g : Group) : StateMatrix :=
  let r := qr m[g.ia] m[g.ib] m[g.ic] m[g.id]
  (((m.set g.ia r.1).set g.ib r.2.1).set g.ic r.2.2.1).set g.id r.2.2.2

/-- QRX of slot s. -/
def qrSlot (slot : Fin 8) (m : StateMatrix) : StateMatrix := qrx m (slotGroup slot)

/-- COLROUND (R122). -/
def colRound (m : StateMatrix) : StateMatrix := qrSlot 3 (qrSlot 2 (qrSlot 1 (qrSlot 0 m)))

/-- DIAGROUND (R123). -/
def diagRound (m : StateMatrix) : StateMatrix := qrSlot 7 (qrSlot 6 (qrSlot 5 (qrSlot 4 m)))

/-- DOUBLEROUND (R124): columns first, then diagonals. -/
def doubleRound (m : StateMatrix) : StateMatrix := diagRound (colRound m)

/-- DOUBLEROUND^n (R132). -/
def doubleRounds : Nat → StateMatrix → StateMatrix
  | 0, m => m
  | n + 1, m => doubleRound (doubleRounds n m)

/-- The quarter-rounds of slots 0 to n - 1, in order (R143). -/
def slotsUpTo : Nat → StateMatrix → StateMatrix
  | 0, m => m
  | n + 1, m => qrSlot (Fin.ofNat 8 n) (slotsUpTo n m)

end Sys2Proof.Machine
end

