-- ==== Sys2Proof/Machine/BlockFn.lean ====
section
/-! DEFINITION. Function level: the initial matrix and the block function (spec/10_state.md R23, R27;
spec/42_block_function.md R130 to R137). -/

namespace Sys2Proof.Machine

/-- CONST[0..3], hardwired (R23): "expand 32-byte k". -/
def constWord (i : Fin 4) : Word :=
  match i with
  | 0 => 0x61707865
  | 1 => 0x3320646e
  | 2 => 0x79622d32
  | 3 => 0x6b206574

/-- INIT(KEY, NONCE, ctr) (R27, layout R22). -/
def initMatrix (key : Vector Word 8) (nonce : Vector Word 3) (ctr : Word) : StateMatrix :=
  #v[constWord 0, constWord 1, constWord 2, constWord 3,
     key[0], key[1], key[2], key[3],
     key[4], key[5], key[6], key[7],
     ctr, nonce[0], nonce[1], nonce[2]]

/-- BASE(KEY, NONCE) (R27). Word 12 has no storage and is never read (R26, R137); it stands here as 0 (log entry 14). -/
def baseMatrix (key : Vector Word 8) (nonce : Vector Word 3) : StateMatrix := initMatrix key nonce 0

/-- INJECTFN (R131). -/
def injectFn (b : StateMatrix) (ctr : Word) : StateMatrix := b.set 12 ctr

/-- PERMUTE (R132): ten double rounds, 80 quarter-rounds (R126, C1). -/
def permute (m : StateMatrix) : StateMatrix := doubleRounds Config.nIter m

/-- FEEDFWDFN (R133): word-wise ADD32. -/
def feedfwdFn (p i : StateMatrix) : StateMatrix := Vector.ofFn fun k => add32 p[k] i[k]

/-- SERIALIZE (R134): byte 4i + j is byte j of word i. -/
def serialize (y : StateMatrix) : Vector Byte 64 := Vector.ofFn fun k => byteAt (y[k.val / 4]) (k.val % 4)

/-- BLOCKFN (R135): the feed-forward adds the injected matrix (C2). -/
def blockFn (b : StateMatrix) (ctr : Word) : Vector Byte 64 :=
  serialize (feedfwdFn (permute (injectFn b ctr)) (injectFn b ctr))

/-- KSBLOCK (R135). -/
def ksBlock (key : Vector Word 8) (nonce : Vector Word 3) (ctr : Word) : Vector Byte 64 :=
  blockFn (baseMatrix key nonce) ctr

end Sys2Proof.Machine
end

