-- ==== Sys2Proof/Machine/StreamFn.lean ====
section
/-! DEFINITION. Function level: the stream function, its overflow check and the XOR of one chunk
(spec/43_stream.md R150 to R161). -/

namespace Sys2Proof.Machine

/-- The counter START + i of chunk i, an integer sum (R105, R152). Where it does not fit the 32-bit latch J, which the
check of R154 excludes, a free value (log entry 8). -/
def chunkCounter (start : Word) (i : Nat) : Word :=
  if start.toNat + i < 2 ^ 32 then BitVec.ofNat 32 (start.toNat + i) else Config.freeCounter start i

/-- The counter overflow condition on integers (R154, R221). -/
def counterOverflow (start : Word) (len : Nat) : Bool :=
  decide (1 ≤ chunkCount len ∧ start.toNat + (chunkCount len - 1) > 2 ^ 32 - 1)

/-- One pass of the loop body of R161: byte 64 i + j of the output. -/
def xorByte (dbuf : List Byte) (ks : Vector Byte 64) (i : Nat) (obuf : List Byte) (j : Nat) : List Byte :=
  match memRead dbuf (64 * i + j), ks[j]? with
  | some d, some k => memWrite obuf (64 * i + j) (xor8 d k)
  | _, _ => obuf

/-- The loop of XORCHUNK over chunk i (R153, R161). -/
def xorChunk (dbuf : List Byte) (ks : Vector Byte 64) (i : Nat) (obuf : List Byte) : List Byte :=
  (List.range (chunkLen dbuf.length i)).foldl (xorByte dbuf ks i) obuf

/-- One chunk of STREAMFN: its keystream block, then the XOR (R155). -/
def streamChunk (key : Vector Word 8) (nonce : Vector Word 3) (start : Word) (data obuf : List Byte) (i : Nat) :
    List Byte :=
  xorChunk data (ksBlock key nonce (chunkCounter start i)) i obuf

/-- The chunks of one request computed in the given order (R62, R160). -/
def streamInOrder (key : Vector Word 8) (nonce : Vector Word 3) (start : Word) (data : List Byte)
    (order : List Nat) : List Byte :=
  order.foldl (streamChunk key nonce start data) (List.replicate data.length 0)

/-- STREAMFN (R155), none for CounterOverflow. -/
def streamFn (key : Vector Word 8) (nonce : Vector Word 3) (start : Word) (data : List Byte) :
    Option (List Byte) :=
  if counterOverflow start data.length then none
  else some (streamInOrder key nonce start data (List.range (chunkCount data.length)))

end Sys2Proof.Machine
end

