-- ==== Sys2Proof/Machine/Flags.lean ====
section
/-! DEFINITION. The two flags, the STATUS view and the fault codes (spec/10_state.md R31 to R33;
spec/60_exceptions.md R220). There are no arithmetic flags (R34). -/

namespace Sys2Proof.Machine

/-- Both flags set: BLOCK and PROCESS may run (R31, R222). -/
def loaded (s : State) : Bool := s.keyv && s.noncev

/-- STATUS (R33): bits 7:4 FAULT, 3:2 zero, 1 NONCEV, 0 KEYV. -/
def statusView (s : State) : Byte := s.fault ++ 0#2 ++ BitVec.ofBool s.noncev ++ BitVec.ofBool s.keyv

/-- CounterOverflow (R221). -/
def codeCounterOverflow : BitVec 4 := 1

/-- NotLoaded (R222). -/
def codeNotLoaded : BitVec 4 := 2

/-- BadCommand (R223). -/
def codeBadCommand : BitVec 4 := 3

/-- Faulted, a response code only (R224). -/
def codeFaulted : BitVec 4 := 15

/-- RSP of an ok response (R79). -/
def rspOk : Byte := 0x00

/-- RSP of a fault response, 0x80 + code (R79). -/
def rspFault (code : BitVec 4) : Byte := 0x80 + code.setWidth 8

end Sys2Proof.Machine
end

