-- ==== Sys2Proof/Machine/Ops.lean ====
section
/-! DEFINITION. The operations the meanings share: responding (spec/30_encoding.md R79), reset and fault exit
(spec/70_reset_and_hazards.md R250, spec/60_exceptions.md R229), fault entry (R228), the order of checks
(spec/44_commands.md R170) and the sequencer advance (spec/42_block_function.md R140). -/

namespace Sys2Proof.Machine

/-- respond(ok, payload) (R79). -/
def respondOk (payload : List Byte) (s : State) : State := { s with rsp := s.rsp ++ rspOk :: payload }

/-- respond(fault code), no payload (R79). -/
def respondFault (code : BitVec 4) (s : State) : State := { s with rsp := s.rsp ++ [rspFault code] }

/-- Every piece of state takes its reset value (R39, R250). This is also the only exit from the faulted state (R229).
The host's streams are not the CORE's state (R36) and stay. -/
def resetCore (s : State) : State := { State.reset with cmd := s.cmd, rsp := s.rsp, hwReset := s.hwReset }

/-- Hardware reset strikes (R177): the effect of RESET, no response, a command in flight is abandoned. -/
def hardwareReset (s : State) : State := { resetCore s with hwReset := false }

/-- All hidden state to zero, byte buffers empty (R35). -/
def clearHidden (s : State) : State :=
  { s with
    x := State.reset.x, j := 0, seq := .idle, mode := .block, start := 0, nchunks := 0, ci := 0,
    ks := State.reset.ks, dbuf := [], obuf := [] }

/-- Fault entry for codes 1, 2 and 3 (R228). -/
def faultEntry (code : BitVec 4) (s : State) : State :=
  respondFault code
    { clearHidden s with
      fault := code, key := State.reset.key, nonce := State.reset.nonce, keyv := false, noncev := false }

/-- The answer to any command but RESET and STATUS in the faulted state (R178, R224). -/
def answerFaulted (s : State) : State := respondFault codeFaulted s

/-- RESET and STATUS: accepted whenever the CORE is idle, faulted or not (R170 steps 1, 2); a command that arrives while
the CORE is busy waits and nothing changes (R179). -/
def whenIdle (s accept : State) : State := if s.seq = .idle then accept else s

/-- Every other command: also step 3 of R170, the faulted check. -/
def whenOperational (s accept : State) : State :=
  whenIdle s (if s.fault ≠ 0 then answerFaulted s else accept)

/-- BLOCK and PROCESS: also step 6 of R170, the loaded check (R222). -/
def whenLoaded (s accept : State) : State :=
  whenOperational s (if loaded s then accept else faultEntry codeNotLoaded s)

/-- An illegal opcode byte: Faulted before BadCommand (R170 steps 3 and 4, R223, R227). -/
def badCommand (s : State) : State := whenOperational s (faultEntry codeBadCommand s)

/-- The sequencer advance of a quarter-round at (ROUND, iter, slot) (R140). -/
def qrAdvance (iter : Fin 10) (slot : Fin 8) : Seq :=
  if slot.val < 7 then .round iter (Fin.ofNat 8 (slot.val + 1))
  else if iter.val < 9 then .round (Fin.ofNat 10 (iter.val + 1)) 0
  else .feedfwd

/-- What all eight quarter-round micro-operations do (spec/41_quarter_round.md section 3): X and SEQ, nothing else. -/
def qrStep (slot : Fin 8) (iter : Fin 10) (s : State) : State :=
  { s with x := qrSlot slot s.x, seq := qrAdvance iter slot }

/-- CI + 1 (R161); where it does not fit 33 bits, which R20's range 0..NCHUNKS excludes, a free value
(log entry 9). -/
def nextChunk (ci : BitVec 33) : BitVec 33 :=
  if ci.toNat + 1 < 2 ^ 33 then ci + 1 else Config.freeChunkIndex ci

end Sys2Proof.Machine
end

