-- ==== Sys2Proof/Machine/CmdCompute.lean ====
section
/-! DEFINITION. The acceptance of BLOCK and PROCESS (spec/44_commands.md R175, R176; spec/43_stream.md R161): the
checks, then the start of the micro-operations that compute the response. -/

namespace Sys2Proof.Machine

/-- BLOCK accepted (R139, R175): MODE 0, START the counter operand, CI 0. NCHUNKS is not written (log entry 12). -/
def startBlock (ctr : Word) (s : State) : State :=
  { s with mode := .block, start := ctr, ci := 0, seq := .inject }

/-- PROCESS accepted with NCHUNKS >= 1 (R161). -/
def startProcess (ctr : Word) (data : List Byte) (s : State) : State :=
  { s with
    mode := .process, start := ctr, nchunks := BitVec.ofNat 33 (chunkCount data.length), dbuf := data,
    obuf := List.replicate data.length 0, ci := 0, seq := .inject }

/-- PROCESS after the loaded check: the range check (R154, R170 step 7), then the empty request, answered at
acceptance (R161), or the chunk loop. -/
def acceptProcess (ctr : Word) (data : List Byte) (s : State) : State :=
  if counterOverflow ctr data.length then faultEntry codeCounterOverflow s
  else if chunkCount data.length = 0 then respondOk [] s
  else startProcess ctr data s

/-- BLOCK (R175). -/
def execBlock (ctr : Word) (s : State) : Host.Outcome State Fault Refusal := .next (whenLoaded s (startBlock ctr s))

/-- PROCESS (R176). -/
def execProcess (ctr : Word) (data : List Byte) (s : State) : Host.Outcome State Fault Refusal :=
  .next (whenLoaded s (acceptProcess ctr data s))

end Sys2Proof.Machine
end

