-- ==== Sys2Proof/Machine/CmdControl.lean ====
section
/-! DEFINITION. The commands RESET and STATUS (spec/44_commands.md R171, R172). -/

namespace Sys2Proof.Machine

/-- RESET (R171). -/
def doReset (s : State) : State := whenIdle s (respondOk [] (resetCore s))

/-- STATUS (R172). -/
def doStatus (s : State) : State := whenIdle s (respondOk [statusView s] s)

/-- RESET (R171). -/
def execReset (s : State) : Host.Outcome State Fault Refusal := .next (doReset s)

/-- STATUS (R172). -/
def execStatus (s : State) : Host.Outcome State Fault Refusal := .next (doStatus s)

end Sys2Proof.Machine
end

