-- ==== Sys2Proof/Machine/CmdLoad.lean ====
section
/-! DEFINITION. The commands LOADKEY and LOADNONCE (spec/44_commands.md R173, R174). -/

namespace Sys2Proof.Machine

/-- LOADKEY (R173): all eight words of KEY, and KEYV. -/
def doLoadkey (k : Vector Byte 32) (s : State) : State :=
  whenOperational s (respondOk [] { s with key := keyWords k, keyv := true })

/-- LOADNONCE (R174): all three words of NONCE, and NONCEV. -/
def doLoadnonce (n : Vector Byte 12) (s : State) : State :=
  whenOperational s (respondOk [] { s with nonce := nonceWords n, noncev := true })

/-- LOADKEY (R173). -/
def execLoadkey (k : Vector Byte 32) (s : State) : Host.Outcome State Fault Refusal := .next (doLoadkey k s)

/-- LOADNONCE (R174). -/
def execLoadnonce (n : Vector Byte 12) (s : State) : Host.Outcome State Fault Refusal := .next (doLoadnonce n s)

end Sys2Proof.Machine
end

