-- ==== Sys2Proof/Machine/MicroBlock.lean ====
section
/-! DEFINITION. The micro-operations INJECT, FEEDFWD and EMIT (spec/42_block_function.md R139, R141, R142). -/

namespace Sys2Proof.Machine

/-- INJECT: J <- START + CI, X <- INIT(KEY, NONCE, J) (R139). -/
def doInject (s : State) : State :=
  { s with
    j := chunkCounter s.start s.ci.toNat, x := initMatrix s.key s.nonce (chunkCounter s.start s.ci.toNat),
    seq := .round 0 0 }

/-- FEEDFWD: adds INIT(KEY, NONCE, J), rebuilt from the registers (R141). -/
def doFeedfwd (s : State) : State := { s with x := feedfwdFn s.x (initMatrix s.key s.nonce s.j), seq := .emit }

/-- EMIT: KS <- SERIALIZE(X); X and J cleared; a BLOCK command is answered and the hidden state cleared, a PROCESS
command goes on to XORCHUNK (R142). -/
def doEmit (s : State) : State :=
  match s.mode with
  | .block =>
    respondOk (serialize s.x).toList
      { s with
        x := State.reset.x, j := 0, ks := State.reset.ks, start := 0, nchunks := 0, ci := 0, seq := .idle }
  | .process => { s with ks := serialize s.x, x := State.reset.x, j := 0, seq := .xorchunk }

/-- INJECT (R139). -/
def execInject (s : State) : Host.Outcome State Fault Refusal := .next (doInject s)

/-- FEEDFWD (R141). -/
def execFeedfwd (s : State) : Host.Outcome State Fault Refusal := .next (doFeedfwd s)

/-- EMIT (R142). -/
def execEmit (s : State) : Host.Outcome State Fault Refusal := .next (doEmit s)

end Sys2Proof.Machine
end

