-- ==== Sys2Proof/Machine/MicroRound.lean ====
section
/-! DEFINITION. The eight quarter-round micro-operations QR0 to QR7 (spec/41_quarter_round.md R114 to R121). -/

namespace Sys2Proof.Machine

/-- QR0 (R114): X <- QRX(X, (0, 4, 8, 12)). -/
def execQr0 (iter : Fin 10) (s : State) : Host.Outcome State Fault Refusal := .next (qrStep 0 iter s)

/-- QR1 (R115): X <- QRX(X, (1, 5, 9, 13)). -/
def execQr1 (iter : Fin 10) (s : State) : Host.Outcome State Fault Refusal := .next (qrStep 1 iter s)

/-- QR2 (R116): X <- QRX(X, (2, 6, 10, 14)). -/
def execQr2 (iter : Fin 10) (s : State) : Host.Outcome State Fault Refusal := .next (qrStep 2 iter s)

/-- QR3 (R117): X <- QRX(X, (3, 7, 11, 15)). -/
def execQr3 (iter : Fin 10) (s : State) : Host.Outcome State Fault Refusal := .next (qrStep 3 iter s)

/-- QR4 (R118): X <- QRX(X, (0, 5, 10, 15)). -/
def execQr4 (iter : Fin 10) (s : State) : Host.Outcome State Fault Refusal := .next (qrStep 4 iter s)

/-- QR5 (R119): X <- QRX(X, (1, 6, 11, 12)). -/
def execQr5 (iter : Fin 10) (s : State) : Host.Outcome State Fault Refusal := .next (qrStep 5 iter s)

/-- QR6 (R120): X <- QRX(X, (2, 7, 8, 13)). -/
def execQr6 (iter : Fin 10) (s : State) : Host.Outcome State Fault Refusal := .next (qrStep 6 iter s)

/-- QR7 (R121): X <- QRX(X, (3, 4, 9, 14)). -/
def execQr7 (iter : Fin 10) (s : State) : Host.Outcome State Fault Refusal := .next (qrStep 7 iter s)

end Sys2Proof.Machine
end

