-- ==== Sys2Proof/Machine/MicroStream.lean ====
section
/-! DEFINITION. The micro-operation XORCHUNK and the chunk loop (spec/43_stream.md R161). -/

namespace Sys2Proof.Machine

/-- The output buffer after the XOR of chunk CI. -/
def xoredBuffer (s : State) : List Byte := xorChunk s.dbuf s.ks s.ci.toNat s.obuf

/-- XORCHUNK: the chunk's output bytes, KS cleared, CI + 1; then the next chunk, or the response and the hidden state
cleared (R161). -/
def doXorchunk (s : State) : State :=
  if (nextChunk s.ci).toNat < s.nchunks.toNat then
    { s with obuf := xoredBuffer s, ks := State.reset.ks, ci := nextChunk s.ci, seq := .inject }
  else
    respondOk (xoredBuffer s)
      { s with
        ks := State.reset.ks, dbuf := [], obuf := [], mode := .block, start := 0, nchunks := 0, ci := 0,
        seq := .idle }

/-- XORCHUNK (R161). -/
def execXorchunk (s : State) : Host.Outcome State Fault Refusal := .next (doXorchunk s)

end Sys2Proof.Machine
end

