-- ==== Sys2Proof/Machine/Dispatch.lean ====
section
/-! DEFINITION. exec: one arm per instruction, each a call of its meaning. -/

namespace Sys2Proof.Machine

def exec (i : Instr) (s : State) : Host.Outcome State Fault Refusal :=
  match i with
  | .reset => Sys2Proof.Machine.execReset s
  | .status => Sys2Proof.Machine.execStatus s
  | .loadkey key => Sys2Proof.Machine.execLoadkey key s
  | .loadnonce nonce => Sys2Proof.Machine.execLoadnonce nonce s
  | .block ctr => Sys2Proof.Machine.execBlock ctr s
  | .process ctr data => Sys2Proof.Machine.execProcess ctr data s
  | .inject => Sys2Proof.Machine.execInject s
  | .qr0 iter => Sys2Proof.Machine.execQr0 iter s
  | .qr1 iter => Sys2Proof.Machine.execQr1 iter s
  | .qr2 iter => Sys2Proof.Machine.execQr2 iter s
  | .qr3 iter => Sys2Proof.Machine.execQr3 iter s
  | .qr4 iter => Sys2Proof.Machine.execQr4 iter s
  | .qr5 iter => Sys2Proof.Machine.execQr5 iter s
  | .qr6 iter => Sys2Proof.Machine.execQr6 iter s
  | .qr7 iter => Sys2Proof.Machine.execQr7 iter s
  | .feedfwd => Sys2Proof.Machine.execFeedfwd s
  | .emit => Sys2Proof.Machine.execEmit s
  | .xorchunk => Sys2Proof.Machine.execXorchunk s

end Sys2Proof.Machine
end

