-- ==== Sys2Proof/WellFormed.lean ====
section
/-! DEFINITION. Which instructions have an encoding. Key, nonce, counter and ITER are bounded by their types; the one
check is that LEN fits its 64-bit field (spec/30_encoding.md R75, R77). -/

namespace Sys2Proof

/-- R75: LEN of a PROCESS command is a 64-bit field. -/
def Instr.wellFormed : Instr → Bool
  | .process _ data => decide (data.length < 2 ^ 64)
  | .reset | .status | .loadkey _ | .loadnonce _ | .block _ => true
  | .inject | .qr0 _ | .qr1 _ | .qr2 _ | .qr3 _ | .qr4 _ | .qr5 _ | .qr6 _ | .qr7 _ => true
  | .feedfwd | .emit | .xorchunk => true

end Sys2Proof
end

