-- ==== Sys2Proof/Decode.lean ====
section
/-! DEFINITION. The decoder (spec/30_encoding.md R75 to R78, R80), the encoder written from the same tables, and the
table-word reading the host asks for. -/

namespace Sys2Proof

open Sys2Proof.Machine (le32 bytes32 leNat leBytes)

/-- The first n of the bytes that have arrived, as a field of a fixed length (R75). -/
def takeField (n : Nat) (bs : List Byte) (h : n ≤ bs.length) : Vector Byte n :=
  ⟨(bs.take n).toArray, by simp [h]⟩

/-- FK, LOADKEY's payload (R75). -/
def decodeLoadkey (tl : List Byte) : Decoded :=
  if h : 32 ≤ tl.length then .command (.loadkey (takeField 32 tl h)) (tl.drop 32) else .incomplete

/-- FN, LOADNONCE's payload (R75). -/
def decodeLoadnonce (tl : List Byte) : Decoded :=
  if h : 12 ≤ tl.length then .command (.loadnonce (takeField 12 tl h)) (tl.drop 12) else .incomplete

/-- FB, BLOCK's payload (R75). -/
def decodeBlock : List Byte → Decoded
  | c0 :: c1 :: c2 :: c3 :: rest => .command (.block (le32 c0 c1 c2 c3)) rest
  | _ => .incomplete

/-- FP, PROCESS's payload: ctr, LEN, then LEN data bytes (R75). -/
def decodeProcess : List Byte → Decoded
  | c0 :: c1 :: c2 :: c3 :: l0 :: l1 :: l2 :: l3 :: l4 :: l5 :: l6 :: l7 :: rest =>
    let len := leNat [l0, l1, l2, l3, l4, l5, l6, l7]
    if len ≤ rest.length then .command (.process (le32 c0 c1 c2 c3) (rest.take len)) (rest.drop len)
    else .incomplete
  | _ => .incomplete

/-- Decoding of the command stream, total (R78): the opcode map of R76, the illegal bytes of R77. -/
def decodeBytes : List Byte → Decoded
  | [] => .incomplete
  | op :: tl =>
    if op = 0x01 then .command .reset tl
    else if op = 0x02 then .command .status tl
    else if op = 0x10 then decodeLoadkey tl
    else if op = 0x11 then decodeLoadnonce tl
    else if op = 0x20 then decodeBlock tl
    else if op = 0x21 then decodeProcess tl
    else .illegal op tl

/-- SEQ as 10 bits, PHASE in 9:7, ITER in 6:3, SLOT in 2:0 (spec/10_state.md R30). -/
def seqWord : Seq → BitVec 10
  | .idle => 0#3 ++ 0#4 ++ 0#3
  | .inject => 1#3 ++ 0#4 ++ 0#3
  | .round iter slot => 2#3 ++ BitVec.ofNat 4 iter ++ BitVec.ofNat 3 slot
  | .feedfwd => 3#3 ++ 0#4 ++ 0#3
  | .emit => 4#3 ++ 0#4 ++ 0#3
  | .xorchunk => 5#3 ++ 0#4 ++ 0#3

/-- The micro-operation of slot s (R80). -/
def slotInstr (iter : Fin 10) (slot : Fin 8) : Instr :=
  match slot with
  | 0 => .qr0 iter
  | 1 => .qr1 iter
  | 2 => .qr2 iter
  | 3 => .qr3 iter
  | 4 => .qr4 iter
  | 5 => .qr5 iter
  | 6 => .qr6 iter
  | 7 => .qr7 iter

/-- The micro-operation executed at a sequencer position, none in IDLE (R80). -/
def microOf : Seq → Option Instr
  | .idle => none
  | .inject => some .inject
  | .round iter slot => some (slotInstr iter slot)
  | .feedfwd => some .feedfwd
  | .emit => some .emit
  | .xorchunk => some .xorchunk

/-- Decoding of a SEQ value by the match and mask columns of R80. -/
def decodeSeq (w : BitVec 10) : SeqDecoded :=
  let iter := w.extractLsb' 3 4
  let slot := w.extractLsb' 0 3
  if w = 0x000 then .idle
  else if w = 0x080 then .micro .inject
  else if w &&& 0x380 = 0x100 then
    if h : iter.toNat < 10 then .micro (slotInstr ⟨iter.toNat, h⟩ ⟨slot.toNat, slot.isLt⟩) else .unreachable w
  else if w = 0x180 then .micro .feedfwd
  else if w = 0x200 then .micro .emit
  else if w = 0x280 then .micro .xorchunk
  else .unreachable w

/-- The encoder (R75, R76, R80). -/
def encode : Instr → Code
  | .reset => .bytes [0x01]
  | .status => .bytes [0x02]
  | .loadkey k => .bytes (0x10 :: k.toList)
  | .loadnonce n => .bytes (0x11 :: n.toList)
  | .block ctr => .bytes (0x20 :: bytes32 ctr)
  | .process ctr data => .bytes (0x21 :: (bytes32 ctr ++ leBytes 8 data.length ++ data))
  | .inject => .seq (seqWord .inject)
  | .qr0 iter => .seq (seqWord (.round iter 0))
  | .qr1 iter => .seq (seqWord (.round iter 1))
  | .qr2 iter => .seq (seqWord (.round iter 2))
  | .qr3 iter => .seq (seqWord (.round iter 3))
  | .qr4 iter => .seq (seqWord (.round iter 4))
  | .qr5 iter => .seq (seqWord (.round iter 5))
  | .qr6 iter => .seq (seqWord (.round iter 6))
  | .qr7 iter => .seq (seqWord (.round iter 7))
  | .feedfwd => .seq (seqWord .feedfwd)
  | .emit => .seq (seqWord .emit)
  | .xorchunk => .seq (seqWord .xorchunk)

/-- Decoding of a whole code: a command must use all its bytes. -/
def decode : Code → Option Instr
  | .bytes bs =>
    match decodeBytes bs with
    | .command i [] => some i
    | _ => none
  | .seq w =>
    match decodeSeq w with
    | .micro i => some i
    | _ => none

/-- The length of the command whose first bytes these are, the bytes that are absent read as 0 (R74, R75, R84);
an illegal opcode byte is a command of length 1 (R77). -/
def commandLength (bs : List Byte) : Nat :=
  match bs with
  | [] => 1
  | op :: tl =>
    if op = 0x10 then 33
    else if op = 0x11 then 13
    else if op = 0x20 then 5
    else if op = 0x21 then 13 + leNat ((tl.drop 4).take 8)
    else 1

/-- The bytes of the command that a table word numbers: byte k is bits 8k+7..8k of w, every byte above nbits is 0,
up to the command's length. -/
def tableBytes (nbits w : Nat) : List Byte :=
  let bs := leBytes ((nbits + 7) / 8) w
  bs ++ List.replicate (commandLength bs - bs.length) 0

/-- How a table word is laid out: the SEQ rows have 10 bits, 2 whole bytes, and select by SEQ; every command row has
1 byte, and no command of R75 has a length of 2 (log entry 18). -/
def tableCode (nbits w : Nat) : Code :=
  if 8 < nbits ∧ nbits ≤ 16 then .seq (BitVec.ofNat 10 w) else .bytes (tableBytes nbits w)

/-- The instruction read from a table word; a SEQ word with a bit above bit 9 is no SEQ value. -/
def decodeTableWord (nbits w : Nat) : Option Instr :=
  if 8 < nbits ∧ nbits ≤ 16 ∧ 1024 ≤ w then none else decode (tableCode nbits w)

end Sys2Proof
end

