-- ==== Sys2Proof/Machine/Fetch.lean ====
section
/-! DEFINITION. What the CORE does next: hardware reset, the micro-operation SEQ selects, or the next command of the
stream (spec/44_commands.md R170, R177, R179; spec/30_encoding.md R78, R80). -/

namespace Sys2Proof.Machine

/-- What a step runs: an instruction on a state, or no instruction, with the state it leaves. -/
inductive Fetched where
  | run (i : Instr) (s : State)
  | done (s : State)
  deriving DecidableEq, Repr

/-- In IDLE: a whole command is consumed from the stream and run; an illegal byte is consumed and raises BadCommand; an
incomplete command is no step, nothing changes (R77, R78). -/
def fetchCommand (s : State) : Fetched :=
  match decodeBytes s.cmd with
  | .command i rest => .run i { s with cmd := rest }
  | .illegal _ rest => .done (badCommand { s with cmd := rest })
  | .incomplete => .done s

/-- Hardware reset first (R177); else the micro-operation of SEQ (R80); else, in IDLE, the command stream (R170). -/
def fetch (s : State) : Fetched :=
  if s.hwReset then .done (hardwareReset s)
  else
    match microOf s.seq with
    | some i => .run i s
    | none => fetchCommand s

/-- The sequencer position of a SEQ value; IDLE where the value is no reachable position. -/
def seqOfWord (w : BitVec 10) : Seq :=
  match decodeSeq w with
  | .micro .inject => .inject
  | .micro (.qr0 t) => .round t 0
  | .micro (.qr1 t) => .round t 1
  | .micro (.qr2 t) => .round t 2
  | .micro (.qr3 t) => .round t 3
  | .micro (.qr4 t) => .round t 4
  | .micro (.qr5 t) => .round t 5
  | .micro (.qr6 t) => .round t 6
  | .micro (.qr7 t) => .round t 7
  | .micro .feedfwd => .feedfwd
  | .micro .emit => .emit
  | .micro .xorchunk => .xorchunk
  | _ => .idle

/-- An instruction placed where the next step fetches it: a command at the front of the stream of an idle CORE, a
micro-operation as the sequencer position. -/
def placeCode (s : State) : Code → State
  | .bytes bs => { s with cmd := bs ++ s.cmd, seq := .idle, hwReset := false }
  | .seq w => { s with seq := seqOfWord w, hwReset := false }

end Sys2Proof.Machine
end

