-- ==== Sys2Proof/Machine/Step.lean ====
section
/-! DEFINITION. One step of the CORE. -/

namespace Sys2Proof.Machine

/-- One step: what fetch selects, run by exec (spec/00_scope.md R4, R8). -/
def step (s : State) : Host.Outcome State Fault Refusal :=
  match fetch s with
  | .run i s' => exec i s'
  | .done s' => .next s'

/-- s with the instruction of a table word placed where the next step fetches it (log entries 17 and 18). -/
def State.withFetchWord (s : State) (nbits w : Nat) : State := placeCode s (tableCode nbits w)

end Sys2Proof.Machine
end

