-- ==== Sys2Proof/Machine/HostOps.lean ====
section
/-! DEFINITION. The host agent's moves, each possible between any two steps of the CORE (spec/00_scope.md R7). Reading
responses changes nothing (spec/20_memory.md R58), so it is no move. -/

namespace Sys2Proof.Machine

/-- The host sends command bytes (R74). -/
def hostSend (bs : List Byte) (s : State) : State := { s with cmd := s.cmd ++ bs }

/-- The host asserts hardware reset, at any time (R177). -/
def hostReset (s : State) : State := { s with hwReset := true }

end Sys2Proof.Machine
end

