-- ==== Sys2Proof/Machine/Lanes.lean ====
section
/-! DEFINITION. The chunks of one PROCESS request on any number of lanes (spec/00_scope.md R6 P_LANES and R7;
spec/43_stream.md R160; spec/60_exceptions.md R233): each lane is an agent with its own X, J, KS and its own chunks, all
share KEY, NONCE, START and DBUF read-only, and one OBUF. Sys2Proof.core runs the schedule of R161, one lane
(log entry 2). -/

namespace Sys2Proof.Machine

/-- One lane (R160, R233): its position, its working registers, the chunk in flight and the chunks it was given that
it has not started. -/
structure Lane where
  seq : Seq
  x : StateMatrix
  j : Word
  ks : Vector Byte 64
  chunk : Nat
  queue : List Nat
  deriving DecidableEq, Repr

/-- A request on its lanes: what they share, and the lanes. -/
structure LaneRun where
  key : Vector Word 8
  nonce : Vector Word 3
  start : Word
  dbuf : List Byte
  obuf : List Byte
  lanes : List Lane
  deriving DecidableEq, Repr

/-- A lane takes the next chunk of its queue, or stays idle; its working registers are zero (R35). -/
def Lane.take (queue : List Nat) : Lane :=
  match queue with
  | [] => { seq := .idle, x := State.reset.x, j := 0, ks := State.reset.ks, chunk := 0, queue := [] }
  | c :: rest => { seq := .inject, x := State.reset.x, j := 0, ks := State.reset.ks, chunk := c, queue := rest }

/-- One micro-operation of a lane on its own registers, as R138 to R142 and R161 give it for a PROCESS command. -/
def laneMicro (r : LaneRun) (l : Lane) : Lane :=
  match l.seq with
  | .idle => l
  | .inject =>
    { l with
      j := chunkCounter r.start l.chunk, x := initMatrix r.key r.nonce (chunkCounter r.start l.chunk),
      seq := .round 0 0 }
  | .round iter slot => { l with x := qrSlot slot l.x, seq := qrAdvance iter slot }
  | .feedfwd => { l with x := feedfwdFn l.x (initMatrix r.key r.nonce l.j), seq := .emit }
  | .emit => { l with ks := serialize l.x, x := State.reset.x, j := 0, seq := .xorchunk }
  | .xorchunk => Lane.take l.queue

/-- What a lane's micro-operation does to the shared OBUF: XORCHUNK writes its chunk's bytes, nothing else writes. -/
def laneOutput (r : LaneRun) (l : Lane) : List Byte :=
  match l.seq with
  | .xorchunk => xorChunk r.dbuf l.ks l.chunk r.obuf
  | .idle | .inject | .round _ _ | .feedfwd | .emit => r.obuf

/-- One step of the lane with the given number; a number that names no lane changes nothing. -/
def laneStep (r : LaneRun) (n : Nat) : LaneRun :=
  match r.lanes[n]? with
  | none => r
  | some l => { r with obuf := laneOutput r l, lanes := r.lanes.set n (laneMicro r l) }

/-- A schedule: which lane steps next, and so on. -/
def lanesRun (r : LaneRun) (schedule : List Nat) : LaneRun := schedule.foldl laneStep r

/-- An accepted request with its chunks given to the lanes: one list of chunk indices for each lane. -/
def lanesStart (key : Vector Word 8) (nonce : Vector Word 3) (start : Word) (data : List Byte)
    (given : List (List Nat)) : LaneRun where
  key := key
  nonce := nonce
  start := start
  dbuf := data
  obuf := List.replicate data.length 0
  lanes := given.map Lane.take

/-- The command completes when every chunk is done (R160). -/
def LaneRun.done (r : LaneRun) : Bool := r.lanes.all fun l => l.seq == .idle

end Sys2Proof.Machine
end

