-- ==== Sys2Proof/Machine/CommandLevel.lean ====
section
/-! DEFINITION. The command level, the normative hardware level of spec/00_scope.md R4: one atomic step per host
command, BLOCK answered with KSBLOCK and PROCESS with STREAMFN (spec/44_commands.md R170 to R176). The micro-step level
refines it (spec/42_block_function.md R143, spec/43_stream.md R161). -/

namespace Sys2Proof.Machine

/-- BLOCK at the command level (R175). -/
def commandBlock (ctr : Word) (s : State) : State :=
  whenLoaded s (respondOk (ksBlock s.key s.nonce ctr).toList s)

/-- PROCESS at the command level (R176). -/
def commandProcess (ctr : Word) (data : List Byte) (s : State) : State :=
  whenLoaded s
    (match streamFn s.key s.nonce ctr data with
      | some out => respondOk out s
      | none => faultEntry codeCounterOverflow s)

/-- One command as one atomic step. The spec's command level has no busy state and no micro-operation; here a command on
a state whose SEQ is not IDLE waits, and a micro-operation leaves the state as it is (DESIGN CHOICE, log entry 20). -/
def commandLevel (i : Instr) (s : State) : State :=
  match i with
  | .reset => doReset s
  | .status => doStatus s
  | .loadkey k => doLoadkey k s
  | .loadnonce n => doLoadnonce n s
  | .block ctr => commandBlock ctr s
  | .process ctr data => commandProcess ctr data s
  | .inject | .qr0 _ | .qr1 _ | .qr2 _ | .qr3 _ | .qr4 _ | .qr5 _ | .qr6 _ | .qr7 _ => s
  | .feedfwd | .emit | .xorchunk => s

/-- A step at the command level: hardware reset, or the next whole command of the stream (R8, R78). On a state whose SEQ
is not IDLE, which the spec's command level does not have, nothing changes: no byte is consumed and nothing is answered
(DESIGN CHOICE, log entry 20). -/
def commandStep (s : State) : State :=
  if s.hwReset then hardwareReset s
  else if s.seq ≠ .idle then s
  else
    match fetchCommand s with
    | .run i s' => commandLevel i s'
    | .done s' => s'

/-- How many micro-operations follow the acceptance of a command: 83 for an accepted BLOCK (R138), 84 * NCHUNKS for an
accepted PROCESS (R161), none for any other or for a command turned away. -/
def microSteps (i : Instr) (s : State) : Nat :=
  match i with
  | .block _ => if s.fault = 0 ∧ loaded s then 83 else 0
  | .process ctr data =>
    if s.fault = 0 ∧ loaded s ∧ counterOverflow ctr data.length = false then 84 * chunkCount data.length else 0
  | .reset | .status | .loadkey _ | .loadnonce _ => 0
  | .inject | .qr0 _ | .qr1 _ | .qr2 _ | .qr3 _ | .qr4 _ | .qr5 _ | .qr6 _ | .qr7 _ => 0
  | .feedfwd | .emit | .xorchunk => 0

/-- The micro-steps an idle CORE takes for the command at the front of its stream, its acceptance included. -/
def stepsOfNextCommand (s : State) : Nat :=
  match fetchCommand s with
  | .run i s' => 1 + microSteps i s'
  | .done _ => 1

/-- The machine at either level of P_GRANULARITY (R6). Sys2Proof.core steps at the micro-step level. -/
def stepAt (g : Config.Granularity) (s : State) : Host.Outcome State Fault Refusal :=
  match g with
  | .command => .next (commandStep s)
  | .microstep => step s

end Sys2Proof.Machine
end

