-- ==== Sys2Proof/Safety.lean ====
section
/-! DEFINITION. What claims say of a run: the invariants of the machine's state and the end of a run. -/

namespace Sys2Proof

open Sys2Proof.Machine

/-- n steps of the CORE with no move of the host between them. -/
def runSteps : Nat → State → Host.Outcome State Fault Refusal
  | 0, s => .next s
  | n + 1, s =>
    match step s with
    | .next t => runSteps n t
    | .fault r => .fault r
    | .refused r => .refused r

/-- A block is in flight between INJECT and EMIT (spec/42_block_function.md R138). -/
def Seq.computing : Seq → Bool
  | .round _ _ | .feedfwd | .emit => true
  | .idle | .inject | .xorchunk => false

/-- All hidden state is zero and the byte buffers are empty (spec/10_state.md R35). -/
structure HiddenClear (s : State) : Prop where
  x : s.x = State.reset.x
  j : s.j = 0
  mode : s.mode = .block
  start : s.start = 0
  nchunks : s.nchunks = 0
  ci : s.ci = 0
  ks : s.ks = State.reset.ks
  dbuf : s.dbuf = []
  obuf : s.obuf = []

/-- The bookkeeping of a PROCESS command in flight (R20, R154, R161). -/
structure ProcessInFlight (s : State) : Prop where
  busy : s.seq ≠ .idle
  chunks : s.nchunks.toNat = chunkCount s.dbuf.length
  index : s.ci.toNat < s.nchunks.toNat
  range : s.start.toNat + s.nchunks.toNat ≤ 2 ^ 32
  length : s.obuf.length = s.dbuf.length

/-- The bookkeeping of a BLOCK command in flight, or of no command (R139, R142). -/
structure BlockInFlight (s : State) : Prop where
  position : s.seq ≠ .xorchunk
  nchunks : s.nchunks = 0
  ci : s.ci = 0
  dbuf : s.dbuf = []
  obuf : s.obuf = []

/-- The machine invariant: R32 and R220 on FAULT, R228 and R39 on the key registers, R35 on the idle state, R170 on
what was checked before a command ran, R29 on J, R65 and R142 on KS. -/
structure MachineInv (s : State) : Prop where
  faultCode : s.fault.toNat ≤ 3
  faultUnloads : s.fault ≠ 0 → s.keyv = false ∧ s.noncev = false
  keyUnloaded : s.keyv = false → s.key = State.reset.key
  nonceUnloaded : s.noncev = false → s.nonce = State.reset.nonce
  idleClear : s.seq = .idle → HiddenClear s
  busyChecked : s.seq ≠ .idle → s.fault = 0 ∧ loaded s = true
  latch : s.seq.computing = true → s.j = chunkCounter s.start s.ci.toNat
  noLatch : s.seq.computing = false → s.j = 0 ∧ s.x = State.reset.x
  keystream : s.seq ≠ .xorchunk → s.ks = State.reset.ks
  blockMode : s.mode = .block → BlockInFlight s
  processMode : s.mode = .process → ProcessInFlight s

/-- INIT of the block in flight. -/
def initOf (s : State) : StateMatrix := initMatrix s.key s.nonce (chunkCounter s.start s.ci.toNat)

/-- What the sequencer position says of the data (R143, R161): at (ROUND, t, n) the working matrix is DOUBLEROUND^t of
INIT followed by the quarter-rounds of slots 0 to n - 1, at FEEDFWD it is PERMUTE(INIT), at EMIT the feed-forward of it,
at XORCHUNK the block of the chunk is in KS; and the chunks before CI are done in OBUF. -/
structure Tracks (s : State) : Prop where
  round : ∀ t n, s.seq = .round t n → s.x = slotsUpTo n.val (doubleRounds t.val (initOf s))
  feedfwd : s.seq = .feedfwd → s.x = permute (initOf s)
  emit : s.seq = .emit → s.x = feedfwdFn (permute (initOf s)) (initOf s)
  xorchunk : s.seq = .xorchunk → s.ks = ksBlock s.key s.nonce (chunkCounter s.start s.ci.toNat)
  output : s.mode = .process →
    s.obuf = streamInOrder s.key s.nonce s.start s.dbuf (List.range s.ci.toNat)

/-- The end of a run (spec/44_commands.md R180): every command answered, the CORE idle. -/
structure Ended (s : State) : Prop where
  idle : s.seq = .idle
  answered : s.cmd = []
  quiet : s.hwReset = false

/-- A successful end (R180, R230). -/
structure EndedOk (s : State) : Prop where
  ended : Ended s
  noFault : s.fault = 0

end Sys2Proof
end

