-- ==== Sys2Proof/Certificates/Slice0/Obligations.lean ====
section
/-! DEFINITION. The statements for the provers: what the numbered rules of spec/ say an instruction or the machine
does. -/

open Sys2Proof Sys2Proof.Machine

/-! ## Encodings -/

/-- R75, R76, R80: decoding the encoding of a well-formed instruction gives it back, whatever bytes follow a command. -/
def Obligations.DecodeOfEncode : Prop :=
  ∀ i : Instr, i.wellFormed = true →
    match encode i with
    | .bytes bs => ∀ rest, decodeBytes (bs ++ rest) = .command i rest
    | .seq w => decodeSeq w = .micro i

/-- R75, R76, R80: what the decoder accepts is exactly an encoding: the consumed bytes, or the SEQ value, are the
encoding of the instruction, which is well-formed. -/
def Obligations.EncodeOfDecode : Prop :=
  (∀ bs i rest, decodeBytes bs = .command i rest →
      i.wellFormed = true ∧ ∃ consumed, encode i = .bytes consumed ∧ bs = consumed ++ rest) ∧
    ∀ w i, decodeSeq w = .micro i → i.wellFormed = true ∧ encode i = .seq w

/-- R74, R75, R78, R84: the decoder waits exactly while fewer bytes have arrived than the format needs, and then
consumes exactly the length of the format. -/
def Obligations.DecodeByLength : Prop :=
  (∀ bs, decodeBytes bs = .incomplete ↔ bs.length < commandLength bs) ∧
    (∀ bs i rest, decodeBytes bs = .command i rest → rest = bs.drop (commandLength bs)) ∧
    (∀ tl, commandLength (0x01 :: tl) = 1 ∧ commandLength (0x02 :: tl) = 1 ∧ commandLength (0x10 :: tl) = 33 ∧
      commandLength (0x11 :: tl) = 13 ∧ commandLength (0x20 :: tl) = 5) ∧
    ∀ (ctr len data : List Byte), ctr.length = 4 → len.length = 8 →
      commandLength (0x21 :: (ctr ++ len ++ data)) = 13 + leNat len

/-- R76, R77: an opcode byte is illegal exactly when it is none of the six, and an illegal byte is consumed alone. -/
def Obligations.IllegalOpcodes : Prop :=
  ∀ (op : Byte) (tl : List Byte),
    (op ∉ [(0x01 : Byte), 0x02, 0x10, 0x11, 0x20, 0x21] → decodeBytes (op :: tl) = .illegal op tl) ∧
      (op ∈ [(0x01 : Byte), 0x02, 0x10, 0x11, 0x20, 0x21] → ∀ o r, decodeBytes (op :: tl) ≠ .illegal o r)

/-- R30, R80: the SEQ value of a position selects the micro-operation of that position, none in IDLE. -/
def Obligations.SeqSelects : Prop :=
  (∀ q : Seq, decodeSeq (seqWord q) = match microOf q with
      | none => .idle
      | some i => .micro i) ∧
    ∀ (t : Fin 10) (n : Fin 8), (seqWord (.round t n)).toNat = 0x100 + 8 * t.val + n.val

/-- R80, U5: a 10-bit value is rejected as unreachable exactly when no sequencer position has it. -/
def Obligations.SeqUnreachable : Prop :=
  ∀ w : BitVec 10, (∃ v, decodeSeq w = .unreachable v) ↔ ∀ q : Seq, seqWord q ≠ w

/-- V40 to V47 and the sequencer values of 95_test_vectors.md 2.5: a few words read bit by bit from R75, R76, R80. -/
def Obligations.DecodeWords : Prop :=
  decodeBytes [0x01] = .command .reset [] ∧
    decodeBytes [0x02] = .command .status [] ∧
    decodeBytes [0x11, 0x00, 0x00, 0x00, 0x09, 0x00, 0x00, 0x00, 0x4a, 0x00, 0x00, 0x00, 0x00] =
      .command (.loadnonce #v[0x00, 0x00, 0x00, 0x09, 0x00, 0x00, 0x00, 0x4a, 0x00, 0x00, 0x00, 0x00]) [] ∧
    decodeBytes [0x20, 0x04, 0x03, 0x02, 0x01] = .command (.block 0x01020304) [] ∧
    decodeBytes [0x21, 0x00, 0x00, 0x00, 0x00, 0x01, 0x00, 0x00, 0x00, 0x00, 0x00, 0x00, 0x00, 0xff] =
      .command (.process 0 [0xff]) [] ∧
    decodeBytes [0x77] = .illegal 0x77 [] ∧
    decodeBytes [0x20, 0x01, 0x00] = .incomplete ∧
    decodeSeq 0x080 = .micro .inject ∧
    decodeSeq 0x14f = .micro (.qr7 9) ∧
    decodeSeq 0x280 = .micro .xorchunk

/-! ## Steps -/

/-- R170, R78, R80: a step runs the decoded instruction. In IDLE the command at the front of the stream is consumed
whole and run; elsewhere the micro-operation the SEQ value selects is run on the state as it stands. -/
def Obligations.StepRunsDecoded : Prop :=
  (∀ s i rest, s.hwReset = false → s.seq = .idle → decodeBytes s.cmd = .command i rest → i.wellFormed = true →
      step s = exec i { s with cmd := rest }) ∧
    ∀ s i, s.hwReset = false → decodeSeq (seqWord s.seq) = .micro i → step s = exec i s

/-- R78, R8: an incomplete command is not a fault and changes nothing (that the waiting step leaves the state as it is,
is the model's way to say 'no step', log entry 6). -/
def Obligations.StepWaits : Prop :=
  ∀ s, s.hwReset = false → s.seq = .idle → s.cmd.length < commandLength s.cmd → step s = .next s

/-- R177, R250: hardware reset strikes in every state, idle, busy or faulted: every piece of state takes its reset value
and there is no response. That the unread command bytes stay is the model's choice (log entry 5). -/
def Obligations.HardwareResetStrikes : Prop :=
  ∀ s, s.hwReset = true → step s = .next { State.reset with cmd := s.cmd, rsp := s.rsp }

/-- R39: the reset values the spec gives. -/
def Obligations.ResetValues : Prop :=
  let r := State.reset
  (∀ i (h : i < 8), r.key[i] = 0) ∧ (∀ i (h : i < 3), r.nonce[i] = 0) ∧ r.keyv = false ∧ r.noncev = false ∧
    r.fault = 0 ∧ statusView r = 0x00 ∧ (∀ i (h : i < 16), r.x[i] = 0) ∧ r.j = 0 ∧ seqWord r.seq = 0x000 ∧
    r.mode = .block ∧ r.start = 0 ∧ r.nchunks = 0 ∧ r.ci = 0 ∧ (∀ i (h : i < 64), r.ks[i] = 0) ∧ r.dbuf = [] ∧
    r.obuf = [] ∧ constWord 0 = 0x61707865 ∧ constWord 1 = 0x3320646e ∧ constWord 2 = 0x79622d32 ∧
    constWord 3 = 0x6b206574

/-- R180, R251: after the end of a run nothing runs until the host does something. That 'nothing runs' is a step that
leaves the state as it is, is the model's choice (log entry 6); the empty stream is a case of StepWaits. -/
def Obligations.EndIsQuiet : Prop :=
  ∀ s, Ended s → step s = .next s

/-! ## Words, rounds and blocks -/

/-- R102: ROTL32, by the formula on integers, by bits, and in its corner cases. -/
def Obligations.RotlBits : Prop :=
  ∀ (x : Word) (n : Nat), 1 ≤ n → n ≤ 31 →
    (rotl32 x n).toNat = ((x.toNat <<< n) ||| (x.toNat >>> (32 - n))) % 2 ^ 32 ∧
      (∀ i < 32, (rotl32 x n).getLsbD ((i + n) % 32) = x.getLsbD i) ∧
      rotl32 0 n = 0 ∧ rotl32 0xffffffff n = 0xffffffff ∧ (rotl32 0x80000000 n).toNat = 2 ^ (n - 1) ∧
      (rotl32 1 n).toNat = 2 ^ n ∧ (x <<< n) &&& (x >>> (32 - n)) = 0

/-- R104, R101: for a fixed second operand each word operation is undone by its inverse. -/
def Obligations.WordInverses : Prop :=
  (∀ a b : Word, sub32 (add32 a b) b = a ∧ add32 (sub32 a b) b = a) ∧
    (∀ a b : Word, xor32 (xor32 a b) b = a) ∧
    ∀ (x : Word) (n : Nat), 1 ≤ n → n ≤ 31 →
      rotl32 (rotl32 x n) (32 - n) = x ∧ rotl32 (rotl32 x (32 - n)) n = x

/-- R111: QR is a bijection on quadruples of words and the twelve assignments of R111 are its inverse. -/
def Obligations.QrInverse : Prop :=
  ∀ a b c d : Word,
    (let r := qr a b c d;
      qrInverse r.1 r.2.1 r.2.2.1 r.2.2.2 = (a, b, c, d)) ∧
      (let r := qrInverse a b c d;
        qr r.1 r.2.1 r.2.2.1 r.2.2.2 = (a, b, c, d))

/-- R112: QRX puts QR's four results at the four indices, in operand order, and leaves the other twelve words. -/
def Obligations.QrxWords : Prop :=
  ∀ (m : StateMatrix) (g : Group), [g.ia, g.ib, g.ic, g.id].Nodup →
    ((qrx m g)[g.ia], (qrx m g)[g.ib], (qrx m g)[g.ic], (qrx m g)[g.id]) = qr m[g.ia] m[g.ib] m[g.ic] m[g.id] ∧
      ∀ i : Fin 16, i ∉ [g.ia, g.ib, g.ic, g.id] → (qrx m g)[i] = m[i]

/-- R125: the four quarter-rounds of a round give the same matrix in every order, and all four at once. -/
def Obligations.RoundOrderFree : Prop :=
  ∀ m : StateMatrix,
    (∀ order : List (Fin 8), order.Perm [0, 1, 2, 3] → order.foldl (fun m n => qrSlot n m) m = colRound m) ∧
      (∀ order : List (Fin 8), order.Perm [4, 5, 6, 7] → order.foldl (fun m n => qrSlot n m) m = diagRound m) ∧
      (∀ n : Fin 8, n.val < 4 →
        ∀ i ∈ [(slotGroup n).ia, (slotGroup n).ib, (slotGroup n).ic, (slotGroup n).id],
          (colRound m)[i] = (qrSlot n m)[i]) ∧
      ∀ n : Fin 8, 4 ≤ n.val →
        ∀ i ∈ [(slotGroup n).ia, (slotGroup n).ib, (slotGroup n).ic, (slotGroup n).id],
          (diagRound m)[i] = (qrSlot n m)[i]

/-- R144: PERMUTE is a bijection on matrices and fixes the all-zero one, which is no initial matrix. -/
def Obligations.PermuteBijective : Prop :=
  Function.Bijective permute ∧ permute (Vector.replicate 16 0) = Vector.replicate 16 0 ∧
    ∀ key nonce ctr, initMatrix key nonce ctr ≠ Vector.replicate 16 0

/-- R137: BLOCKFN does not depend on word 12 of the base matrix. -/
def Obligations.BlockIgnoresWord12 : Prop :=
  ∀ (b b' : StateMatrix) (ctr : Word), (∀ i : Fin 16, i ≠ 12 → b[i] = b'[i]) → blockFn b ctr = blockFn b' ctr

/-- R133, R134, R135, R53: byte 4i + j of the keystream block is byte j of the sum mod 2^32 of word i after the ten
double rounds and word i of the counter-injected matrix. -/
def Obligations.BlockBytes : Prop :=
  ∀ (key : Vector Word 8) (nonce : Vector Word 3) (ctr : Word) (i j : Nat) (hi : i < 16) (hj : j < 4),
    let m := initMatrix key nonce ctr
    ((ksBlock key nonce ctr)[4 * i + j]).toNat =
      (((doubleRounds 10 m)[i].toNat + m[i].toNat) % 2 ^ 32 / 2 ^ (8 * j)) % 256

/-! ## The stream function -/

/-- R154, R157: the overflow condition holds exactly when some chunk's counter would be 2^32 or more, that is when the
data is longer than 64 * (2^32 - start). -/
def Obligations.OverflowExactly : Prop :=
  ∀ (start : Word) (len : Nat),
    (counterOverflow start len = true ↔ ∃ i, i < (len + 63) / 64 ∧ 2 ^ 32 ≤ start.toNat + i) ∧
      (counterOverflow start len = false ↔ len ≤ 64 * (2 ^ 32 - start.toNat))

/-- R150, R153, R155, R156, R164: STREAMFN faults exactly on overflow; otherwise the output has the input's length and
byte k is data byte k XOR byte k mod 64 of the block of counter start + k div 64. -/
def Obligations.StreamBytes : Prop :=
  ∀ (key : Vector Word 8) (nonce : Vector Word 3) (start : Word) (data : List Byte),
    (counterOverflow start data.length = true → streamFn key nonce start data = none) ∧
      (counterOverflow start data.length = false →
        ∃ out, streamFn key nonce start data = some out ∧ out.length = data.length ∧
          ∀ k d, data[k]? = some d →
            out[k]? = some (d ^^^ (ksBlock key nonce (BitVec.ofNat 32 (start.toNat + k / 64)))[k % 64]'(by omega)))

/-- R163: STREAMFN is its own inverse, and whether it faults depends only on start and length. -/
def Obligations.StreamSelfInverse : Prop :=
  ∀ (key : Vector Word 8) (nonce : Vector Word 3) (start : Word) (data : List Byte),
    (∀ out, streamFn key nonce start data = some out →
        out.length = data.length ∧ streamFn key nonce start out = some data) ∧
      ∀ data' : List Byte, data'.length = data.length →
        (streamFn key nonce start data = none ↔ streamFn key nonce start data' = none)

/-- R160, R62: the chunks of one request give the same output in every order. -/
def Obligations.StreamOrderFree : Prop :=
  ∀ (key : Vector Word 8) (nonce : Vector Word 3) (start : Word) (data : List Byte) (order : List Nat),
    order.Perm (List.range (chunkCount data.length)) →
      streamInOrder key nonce start data order =
        streamInOrder key nonce start data (List.range (chunkCount data.length))

/-- R160, R233: on any number of lanes, whatever chunks each was given and whatever order the lanes step in, a request
that is done has the output of the one-lane order; and some schedule gets it done. -/
def Obligations.LanesAgree : Prop :=
  ∀ (key : Vector Word 8) (nonce : Vector Word 3) (start : Word) (data : List Byte) (given : List (List Nat)),
    given.flatten.Perm (List.range (chunkCount data.length)) →
      (∀ schedule, (lanesRun (lanesStart key nonce start data given) schedule).done = true →
          (lanesRun (lanesStart key nonce start data given) schedule).obuf =
            streamInOrder key nonce start data (List.range (chunkCount data.length))) ∧
        ∃ schedule, (lanesRun (lanesStart key nonce start data given) schedule).done = true

/-- R164, R57: a request split at a multiple of 64 bytes composes. -/
def Obligations.StreamSplit : Prop :=
  ∀ (key : Vector Word 8) (nonce : Vector Word 3) (start : Word) (d1 d2 out : List Byte),
    d1.length % 64 = 0 → d2 ≠ [] → streamFn key nonce start (d1 ++ d2) = some out →
      ∃ o1 o2, streamFn key nonce start d1 = some o1 ∧
        streamFn key nonce (BitVec.ofNat 32 (start.toNat + d1.length / 64)) d2 = some o2 ∧ out = o1 ++ o2

/-- R162: on zero bytes STREAMFN gives the keystream, and on any data of that length data XOR keystream. -/
def Obligations.StreamKeystream : Prop :=
  ∀ (key : Vector Word 8) (nonce : Vector Word 3) (start : Word) (n : Nat) (z : List Byte),
    streamFn key nonce start (List.replicate n 0) = some z →
      z.length = n ∧
        (∀ k (_ : k < n),
          z[k]? = some ((ksBlock key nonce (BitVec.ofNat 32 (start.toNat + k / 64)))[k % 64]'(by omega))) ∧
        ∀ data : List Byte, data.length = n →
          streamFn key nonce start data = some (List.zipWith (· ^^^ ·) data z)

/-! ## Commands: what each does when it runs -/

/-- R171, R39, R79: RESET, in an idle CORE, faulted or not: every piece of state takes its reset value, the response is
ok. -/
def Obligations.ResetCompletes : Prop :=
  ∀ s, s.seq = .idle →
    exec .reset s = .next { State.reset with cmd := s.cmd, rsp := s.rsp ++ [0x00], hwReset := s.hwReset }

/-- R172, R33: STATUS, in an idle CORE, faulted or not: one byte with KEYV, NONCEV and FAULT in their places, and
nothing else changes. -/
def Obligations.StatusCompletes : Prop :=
  ∀ s, s.seq = .idle → ∃ v : Byte,
    exec .status s = .next { s with rsp := s.rsp ++ [0x00, v] } ∧
      v.getLsbD 0 = s.keyv ∧ v.getLsbD 1 = s.noncev ∧ v.getLsbD 2 = false ∧ v.getLsbD 3 = false ∧
      v.toNat / 16 = s.fault.toNat

/-- R173, R70: LOADKEY writes the eight little-endian words and KEYV, responds ok, and changes nothing else. -/
def Obligations.LoadkeyCompletes : Prop :=
  ∀ (k : Vector Byte 32) s, s.seq = .idle → s.fault = 0 → ∃ key : Vector Word 8,
    exec (.loadkey k) s = .next { s with key := key, keyv := true, rsp := s.rsp ++ [0x00] } ∧
      ∀ i (_ : i < 8), key[i].toNat =
        k[4 * i].toNat + 256 * k[4 * i + 1].toNat + 65536 * k[4 * i + 2].toNat + 16777216 * k[4 * i + 3].toNat

/-- R174, R71: LOADNONCE writes the three little-endian words and NONCEV, responds ok, and changes nothing else. -/
def Obligations.LoadnonceCompletes : Prop :=
  ∀ (n : Vector Byte 12) s, s.seq = .idle → s.fault = 0 → ∃ nonce : Vector Word 3,
    exec (.loadnonce n) s = .next { s with nonce := nonce, noncev := true, rsp := s.rsp ++ [0x00] } ∧
      ∀ i (_ : i < 3), nonce[i].toNat =
        n[4 * i].toNat + 256 * n[4 * i + 1].toNat + 65536 * n[4 * i + 2].toNat + 16777216 * n[4 * i + 3].toNat

/-- R175, R139, R170: BLOCK past its checks starts the block's micro-operations: MODE 0, START the operand, CI 0, SEQ
INJECT, and nothing else changes. That NCHUNKS is not written is read from R142 and P5 (log entry 12). -/
def Obligations.BlockCompletes : Prop :=
  ∀ (ctr : Word) s, s.seq = .idle → s.fault = 0 → s.keyv = true → s.noncev = true →
    exec (.block ctr) s = .next { s with mode := .block, start := ctr, ci := 0, seq := .inject }

/-- R176, R161, R156: PROCESS past its checks. An empty request is answered at once and changes nothing; any other in
the counter range starts the chunk loop, with NCHUNKS = ceil(LEN / 64) and OBUF of LEN zero bytes. -/
def Obligations.ProcessCompletes : Prop :=
  ∀ (ctr : Word) (data : List Byte) s, s.seq = .idle → s.fault = 0 → s.keyv = true → s.noncev = true →
    (data = [] → exec (.process ctr data) s = .next { s with rsp := s.rsp ++ [0x00] }) ∧
      (data ≠ [] → ctr.toNat + ((data.length + 63) / 64 - 1) ≤ 2 ^ 32 - 1 → ∃ nchunks : BitVec 33,
        nchunks.toNat = (data.length + 63) / 64 ∧
          exec (.process ctr data) s =
            .next { s with
              mode := .process, start := ctr, nchunks := nchunks, dbuf := data,
              obuf := List.replicate data.length 0, ci := 0, seq := .inject })

/-! ## Micro-operations: what each does -/

/-- R139, R27: INJECT, in every state: X is the constants, KEY, J and NONCE, SEQ is (ROUND, 0, 0), nothing else but J
changes, and J is START + CI wherever that sum is below 2^32 (elsewhere J is a free value, log entry 8). -/
def Obligations.InjectCompletes : Prop :=
  ∀ s, ∃ (j : Word) (x : StateMatrix),
    exec .inject s = .next { s with j := j, x := x, seq := .round 0 0 } ∧
      (s.start.toNat + s.ci.toNat ≤ 2 ^ 32 - 1 → j.toNat = s.start.toNat + s.ci.toNat) ∧
      x[0] = 0x61707865 ∧ x[1] = 0x3320646e ∧ x[2] = 0x79622d32 ∧ x[3] = 0x6b206574 ∧
      (∀ i (_ : i < 8), x[4 + i] = s.key[i]) ∧ x[12] = j ∧ ∀ i (_ : i < 3), x[13 + i] = s.nonce[i]

/-- R114 to R121, R140: QR0 to QR7, in every state: the quarter-round on the four words of the group and the advance of
SEQ, nothing else. -/
def Obligations.QuarterRoundsComplete : Prop :=
  (∀ t s, exec (.qr0 t) s = .next { s with x := qrx s.x ⟨0, 4, 8, 12⟩, seq := .round t 1 }) ∧
    (∀ t s, exec (.qr1 t) s = .next { s with x := qrx s.x ⟨1, 5, 9, 13⟩, seq := .round t 2 }) ∧
    (∀ t s, exec (.qr2 t) s = .next { s with x := qrx s.x ⟨2, 6, 10, 14⟩, seq := .round t 3 }) ∧
    (∀ t s, exec (.qr3 t) s = .next { s with x := qrx s.x ⟨3, 7, 11, 15⟩, seq := .round t 4 }) ∧
    (∀ t s, exec (.qr4 t) s = .next { s with x := qrx s.x ⟨0, 5, 10, 15⟩, seq := .round t 5 }) ∧
    (∀ t s, exec (.qr5 t) s = .next { s with x := qrx s.x ⟨1, 6, 11, 12⟩, seq := .round t 6 }) ∧
    (∀ t s, exec (.qr6 t) s = .next { s with x := qrx s.x ⟨2, 7, 8, 13⟩, seq := .round t 7 }) ∧
    (∀ (t t' : Fin 10) s, t'.val = t.val + 1 →
      exec (.qr7 t) s = .next { s with x := qrx s.x ⟨3, 4, 9, 14⟩, seq := .round t' 0 }) ∧
    ∀ s, exec (.qr7 9) s = .next { s with x := qrx s.x ⟨3, 4, 9, 14⟩, seq := .feedfwd }

/-- R141, R100: FEEDFWD, in every state: each word of X gets the word of INIT(KEY, NONCE, J) added mod 2^32, SEQ is EMIT,
nothing else changes. -/
def Obligations.FeedfwdCompletes : Prop :=
  ∀ s, ∃ x : StateMatrix,
    exec .feedfwd s = .next { s with x := x, seq := .emit } ∧
      x[0].toNat = (s.x[0].toNat + 0x61707865) % 2 ^ 32 ∧ x[1].toNat = (s.x[1].toNat + 0x3320646e) % 2 ^ 32 ∧
      x[2].toNat = (s.x[2].toNat + 0x79622d32) % 2 ^ 32 ∧ x[3].toNat = (s.x[3].toNat + 0x6b206574) % 2 ^ 32 ∧
      (∀ i (_ : i < 8), x[4 + i].toNat = (s.x[4 + i].toNat + s.key[i].toNat) % 2 ^ 32) ∧
      x[12].toNat = (s.x[12].toNat + s.j.toNat) % 2 ^ 32 ∧
      ∀ i (_ : i < 3), x[13 + i].toNat = (s.x[13 + i].toNat + s.nonce[i].toNat) % 2 ^ 32

/-- R142, R134: EMIT, in every state: X and J are cleared; for a BLOCK command the 64 bytes are the response and the
hidden state is cleared, for a PROCESS command they are in KS and XORCHUNK is next. -/
def Obligations.EmitCompletes : Prop :=
  ∀ s, ∃ ks : Vector Byte 64,
    (∀ i j (_ : i < 16) (_ : j < 4), ks[4 * i + j].toNat = (s.x[i].toNat / 2 ^ (8 * j)) % 256) ∧
      (s.mode = .block → exec .emit s = .next
        { s with
          x := Vector.replicate 16 0, j := 0, ks := Vector.replicate 64 0, start := 0, nchunks := 0, ci := 0,
          seq := .idle, rsp := s.rsp ++ 0x00 :: ks.toList }) ∧
      (s.mode = .process → exec .emit s = .next
        { s with x := Vector.replicate 16 0, j := 0, ks := ks, seq := .xorchunk })

/-- R161, R153, R52: XORCHUNK, with OBUF as long as DBUF and CI in its range: the bytes of chunk CI become data XOR
block byte and every other output byte is as before; KS is cleared; then the next chunk, or the response and the hidden
state cleared. -/
def Obligations.XorchunkCompletes : Prop :=
  ∀ s, s.obuf.length = s.dbuf.length → s.ci.toNat + 1 < 2 ^ 33 → ∃ out : List Byte,
    out.length = s.obuf.length ∧
      (∀ j d (_ : j < 64), s.dbuf[64 * s.ci.toNat + j]? = some d →
        out[64 * s.ci.toNat + j]? = some (d ^^^ s.ks[j])) ∧
      (∀ k, k < 64 * s.ci.toNat ∨ 64 * s.ci.toNat + 64 ≤ k → out[k]? = s.obuf[k]?) ∧
      (s.ci.toNat + 1 < s.nchunks.toNat → ∃ ci : BitVec 33, ci.toNat = s.ci.toNat + 1 ∧
        exec .xorchunk s = .next
          { s with obuf := out, ks := Vector.replicate 64 0, ci := ci, seq := .inject }) ∧
      (s.nchunks.toNat ≤ s.ci.toNat + 1 → exec .xorchunk s = .next
        { s with
          ks := Vector.replicate 64 0, dbuf := [], obuf := [], mode := .block, start := 0, nchunks := 0, ci := 0,
          seq := .idle, rsp := s.rsp ++ 0x00 :: out })

/-! ## Faults, refusals and the hold -/

/-- R222, R228, R227: BLOCK and PROCESS with the key or the nonce not loaded raise NotLoaded, whatever the range: FAULT
is 2, everything else the CORE holds is at its reset value, the response is 0x82. -/
def Obligations.NotLoadedTaken : Prop :=
  ∀ s, s.seq = .idle → s.fault = 0 → (s.keyv = false ∨ s.noncev = false) →
    (∀ ctr, exec (.block ctr) s = .next
      { State.reset with fault := 2, cmd := s.cmd, rsp := s.rsp ++ [0x82], hwReset := s.hwReset }) ∧
      ∀ ctr data, exec (.process ctr data) s = .next
        { State.reset with fault := 2, cmd := s.cmd, rsp := s.rsp ++ [0x82], hwReset := s.hwReset }

/-- R221, R154, R228: a loaded PROCESS with a chunk counter of 2^32 or more raises CounterOverflow: FAULT is 1,
everything else the CORE holds is at its reset value, the response is 0x81 and no output byte. -/
def Obligations.CounterOverflowTaken : Prop :=
  ∀ (ctr : Word) (data : List Byte) s, s.seq = .idle → s.fault = 0 → s.keyv = true → s.noncev = true →
    (∃ i, i < (data.length + 63) / 64 ∧ 2 ^ 32 ≤ ctr.toNat + i) →
      exec (.process ctr data) s = .next
        { State.reset with fault := 1, cmd := s.cmd, rsp := s.rsp ++ [0x81], hwReset := s.hwReset }

/-- R223, R77, R228: an opcode byte outside the six, seen while FAULT = 0, raises BadCommand; the byte is consumed and
nothing else is. -/
def Obligations.BadCommandTaken : Prop :=
  ∀ s op rest, s.hwReset = false → s.seq = .idle → s.fault = 0 → s.cmd = op :: rest →
    op ∉ [(0x01 : Byte), 0x02, 0x10, 0x11, 0x20, 0x21] →
      step s = .next { State.reset with fault := 3, cmd := rest, rsp := s.rsp ++ [0x83] }

/-- R224, R178: while FAULT is not 0 every command but RESET and STATUS, an illegal byte included, is answered Faulted
with no payload and no state change. -/
def Obligations.FaultedRefusal : Prop :=
  ∀ s, s.seq = .idle → s.fault ≠ 0 →
    (∀ k, exec (.loadkey k) s = .next { s with rsp := s.rsp ++ [0x8f] }) ∧
      (∀ n, exec (.loadnonce n) s = .next { s with rsp := s.rsp ++ [0x8f] }) ∧
      (∀ ctr, exec (.block ctr) s = .next { s with rsp := s.rsp ++ [0x8f] }) ∧
      (∀ ctr data, exec (.process ctr data) s = .next { s with rsp := s.rsp ++ [0x8f] }) ∧
      ∀ op rest, s.hwReset = false → s.cmd = op :: rest → op ∉ [(0x01 : Byte), 0x02, 0x10, 0x11, 0x20, 0x21] →
        step s = .next { s with cmd := rest, rsp := s.rsp ++ [0x8f] }

/-- R179, R170: while the CORE is busy no command is accepted, a step consumes no command byte, and unless hardware reset
strikes KEY, NONCE, KEYV, NONCEV and FAULT do not change. Two clauses are the model's choice: that exec of a waiting
command leaves the state as it is (log entry 7), and that the unread command bytes stay when hardware reset strikes (log
entry 5). -/
def Obligations.BusyHold : Prop :=
  ∀ s, s.seq ≠ .idle →
    (exec .reset s = .next s ∧ exec .status s = .next s ∧ (∀ k, exec (.loadkey k) s = .next s) ∧
      (∀ n, exec (.loadnonce n) s = .next s) ∧ (∀ ctr, exec (.block ctr) s = .next s) ∧
      ∀ ctr data, exec (.process ctr data) s = .next s) ∧
      ∀ t, step s = .next t → t.cmd = s.cmd ∧
        (s.hwReset = false → t.key = s.key ∧ t.nonce = s.nonce ∧ t.keyv = s.keyv ∧ t.noncev = s.noncev ∧
          t.fault = s.fault)

/-! ## Whole-machine rules -/

/-- Every instruction and every step, in every state, answers a next state. R8 gives a command three outcomes and R225
says that no micro-operation can fault; the rest is the model's choice: the CORE's faults are next states and the type
Fault is empty (log entry 13), and waiting is a step that changes nothing (log entries 6 and 7). -/
def Obligations.StepAlwaysNext : Prop :=
  (∀ i s, ∃ t, exec i s = .next t) ∧ ∀ s, ∃ t, step s = .next t

/-- R20, R29, R32, R35, R39, R154, R170, R228: the machine invariant is kept by every step. -/
def Obligations.InvariantKept : Prop :=
  ∀ s t, MachineInv s → step s = .next t → MachineInv t

/-- R39: the machine invariant, and what the sequencer position says of the data, hold at reset. -/
def Obligations.InvariantAtReset : Prop :=
  MachineInv State.reset ∧ Tracks State.reset

/-- R35: an idle state that meets the invariant is determined by KEY, NONCE, KEYV, NONCEV and FAULT, the host's channels
apart. -/
def Obligations.IdleDetermined : Prop :=
  ∀ s t, MachineInv s → MachineInv t → s.seq = .idle → t.seq = .idle →
    s.key = t.key → s.nonce = t.nonce → s.keyv = t.keyv → s.noncev = t.noncev → s.fault = t.fault →
      t = { s with cmd := t.cmd, rsp := t.rsp, hwReset := t.hwReset }

/-- R143, R161: step by step the working matrix, the keystream block and the output buffer are what the function level
gives at the sequencer position. -/
def Obligations.TracksKept : Prop :=
  ∀ s t, MachineInv s → Tracks s → step s = .next t → Tracks t

/-- R7, R74, R177: the host's moves keep the invariants; a hardware reset asserted in any state, even one that breaks
them, restores them. That the very next step serves it and clears the request bit is the model's choice (log
entry 5). -/
def Obligations.HostMovesKeep : Prop :=
  (∀ s bs, MachineInv s → Tracks s → MachineInv (hostSend bs s) ∧ Tracks (hostSend bs s)) ∧
    (∀ s, MachineInv s → Tracks s → MachineInv (hostReset s) ∧ Tracks (hostReset s)) ∧
    ∀ s t, step (hostReset s) = .next t → MachineInv t ∧ Tracks t ∧ t.hwReset = false

/-- R32, R229, R230: a non-zero FAULT is changed only by hardware reset or by a RESET command, which clear it. -/
def Obligations.FaultSticky : Prop :=
  ∀ s t, s.fault ≠ 0 → step s = .next t →
    t.fault = s.fault ∨
      (t.fault = 0 ∧ (s.hwReset = true ∨ (s.seq = .idle ∧ ∃ rest, decodeBytes s.cmd = .command .reset rest)))

/-- R24, R25, R28: KEY and NONCE change only by hardware reset, RESET, their own load, or fault entry, which clears
them. -/
def Obligations.KeyWriters : Prop :=
  ∀ s t, step s = .next t →
    (t.key ≠ s.key →
      s.hwReset = true ∨ (∃ rest, decodeBytes s.cmd = .command .reset rest) ∨
        (∃ k rest, decodeBytes s.cmd = .command (.loadkey k) rest) ∨
        (s.fault = 0 ∧ t.fault ≠ 0 ∧ t.key = Vector.replicate 8 0)) ∧
      (t.nonce ≠ s.nonce →
        s.hwReset = true ∨ (∃ rest, decodeBytes s.cmd = .command .reset rest) ∨
          (∃ n rest, decodeBytes s.cmd = .command (.loadnonce n) rest) ∨
          (s.fault = 0 ∧ t.fault ≠ 0 ∧ t.nonce = Vector.replicate 3 0))

/-- R38: of two idle states that differ in KEY and NONCE only, any command but BLOCK and PROCESS gives the same
responses, and states that again differ in KEY and NONCE at most. -/
def Obligations.KeyUnreadable : Prop :=
  ∀ (s t : State) (key : Vector Word 8) (nonce : Vector Word 3), s.seq = .idle →
    (∀ ctr rest, decodeBytes s.cmd ≠ .command (.block ctr) rest) →
    (∀ ctr data rest, decodeBytes s.cmd ≠ .command (.process ctr data) rest) →
      step s = .next t →
        ∃ key' nonce', step { s with key := key, nonce := nonce } = .next { t with key := key', nonce := nonce' }

/-- R262, R34: the step sequence does not depend on data: of two busy states that agree on SEQ, MODE, NCHUNKS and CI,
whatever their keys, nonces, counters, matrices and buffers, the next states agree on them too. -/
def Obligations.ScheduleDataIndependent : Prop :=
  ∀ s s' t t', s.seq ≠ .idle → s.hwReset = false → s'.hwReset = false →
    s'.seq = s.seq → s'.mode = s.mode → s'.nchunks = s.nchunks → s'.ci = s.ci →
      step s = .next t → step s' = .next t' →
        t'.seq = t.seq ∧ t'.mode = t.mode ∧ t'.nchunks = t.nchunks ∧ t'.ci = t.ci

/-- R79, R58: a step sends nothing, or one whole response and then the CORE is idle: 0x00 and a payload, or one fault
byte alone. -/
def Obligations.ResponsesWhole : Prop :=
  ∀ s t, step s = .next t →
    t.rsp = s.rsp ∨
      (t.seq = .idle ∧ ((∃ payload, t.rsp = s.rsp ++ 0x00 :: payload) ∨
        ∃ b ∈ [(0x81 : Byte), 0x82, 0x83, 0x8f], t.rsp = s.rsp ++ [b]))

/-- R59: a load issued twice with the same payload leaves what issuing it once leaves, the second response apart. -/
def Obligations.LoadsIdempotent : Prop :=
  ∀ s t u : State,
    (∀ k, exec (.loadkey k) s = .next t → exec (.loadkey k) t = .next u → u = { t with rsp := u.rsp }) ∧
      (∀ n, exec (.loadnonce n) s = .next t → exec (.loadnonce n) t = .next u → u = { t with rsp := u.rsp }) ∧
      (exec .reset s = .next t → exec .reset t = .next u → u = { t with rsp := u.rsp })

/-! ## Runs of one command -/

/-- R138: the position after n of the 83 micro-operations of a block. -/
def Obligations.BlockSchedule : Prop :=
  ∀ s, s.seq = .inject → s.hwReset = false →
    (∀ (t : Fin 10) (n : Fin 8), ∃ u, runSteps (1 + 8 * t.val + n.val) s = .next u ∧
      u.seq = .round t n) ∧
      (∃ u, runSteps 81 s = .next u ∧ u.seq = .feedfwd) ∧
      (∃ u, runSteps 82 s = .next u ∧ u.seq = .emit) ∧
      ∃ u, runSteps 83 s = .next u ∧
        u.seq = match s.mode with
          | .block => .idle
          | .process => .xorchunk

/-- R4, R143, R161, R175, R176: the micro-step level refines the command level. From an idle state with all hidden state
clear, the micro-steps of the next command end in exactly the state, responses included, that the command level gives in
one step. -/
def Obligations.CommandRefinement : Prop :=
  ∀ s, s.hwReset = false → s.seq = .idle → HiddenClear s →
    runSteps (stepsOfNextCommand s) s = .next (commandStep s)

/-- R179, R262: the hold always ends: a busy CORE is idle again after at most 84 micro-steps for each chunk not yet done,
and after at most 84 for a BLOCK command (a bound; R179 counts 83), with no step of any other agent. -/
def Obligations.BusyEnds : Prop :=
  ∀ s, MachineInv s → s.hwReset = false → s.seq ≠ .idle →
    ∃ n t, n ≤ 84 * max 1 (s.nchunks.toNat - s.ci.toNat) ∧ runSteps n s = .next t ∧
      t.seq = .idle
end

