-- ==== Sys2Proof/Laws/Decode.lean ====
section
/-! SUPPORT. Byte order and the field readers: the reading of a written number, and what the decoder answers on each
command's payload. -/

namespace Sys2Proof

open Sys2Proof.Machine (le32 bytes32 byteAt leNat leBytes)

theorem leBytes_length (count n : Nat) : (leBytes count n).length = count := by
  induction count generalizing n with
  | zero => rfl
  | succ count ih => simp [leBytes, ih]

theorem leNat_leBytes (count n : Nat) (h : n < 256 ^ count) : leNat (leBytes count n) = n := by
  induction count generalizing n with
  | zero =>
    have h0 : n < 1 := by simpa using h
    simp only [leBytes, leNat]
    omega
  | succ count ih =>
    have hq : n / 256 < 256 ^ count := Nat.div_lt_of_lt_mul (by rw [pow_succ] at h; omega)
    simp only [leBytes, leNat, ih _ hq, BitVec.toNat_ofNat]
    omega

theorem leBytes_leNat (bs : List Byte) : leBytes bs.length (leNat bs) = bs := by
  induction bs with
  | nil => rfl
  | cons b bs ih =>
    have hb : b.toNat < 256 := b.isLt
    have h1 : (b.toNat + 256 * leNat bs) / 256 = leNat bs := by omega
    have h2 : BitVec.ofNat 8 (b.toNat + 256 * leNat bs) = b := by
      apply BitVec.eq_of_toNat_eq
      rw [BitVec.toNat_ofNat]
      omega
    simp only [List.length_cons, leBytes, leNat, h1, h2, ih]

theorem leNat_lt (bs : List Byte) : leNat bs < 256 ^ bs.length := by
  induction bs with
  | nil => simp [leNat]
  | cons b bs ih =>
    have hb : b.toNat < 256 := b.isLt
    simp only [leNat, List.length_cons, pow_succ]
    omega

theorem byteAt_toNat (v : Word) (j : Nat) : (byteAt v j).toNat = (v.toNat >>> (8 * j)) % 256 := by
  simp [byteAt]

theorem le32_toNat (b0 b1 b2 b3 : Byte) :
    (le32 b0 b1 b2 b3).toNat = b0.toNat + 256 * b1.toNat + 65536 * b2.toNat + 16777216 * b3.toNat := by
  have := b0.isLt
  have := b1.isLt
  have := b2.isLt
  have := b3.isLt
  simp only [le32, BitVec.toNat_ofNat]
  omega

/-- LE32 undoes BYTES32 (R55). -/
theorem le32_byteAt (v : Word) : le32 (byteAt v 0) (byteAt v 1) (byteAt v 2) (byteAt v 3) = v := by
  apply BitVec.eq_of_toNat_eq
  have := v.isLt
  simp only [le32_toNat, byteAt_toNat, Nat.shiftRight_eq_div_pow]
  omega

/-- BYTES32 undoes LE32 (R55). -/
theorem bytes32_le32 (b0 b1 b2 b3 : Byte) : bytes32 (le32 b0 b1 b2 b3) = [b0, b1, b2, b3] := by
  have := b0.isLt
  have := b1.isLt
  have := b2.isLt
  have := b3.isLt
  have h (j : Nat) (b : Byte) (hb : (byteAt (le32 b0 b1 b2 b3) j).toNat = b.toNat) :
      byteAt (le32 b0 b1 b2 b3) j = b := BitVec.eq_of_toNat_eq hb
  simp only [bytes32, List.cons.injEq, and_true]
  refine ⟨h 0 b0 ?_, h 1 b1 ?_, h 2 b2 ?_, h 3 b3 ?_⟩ <;>
    simp only [byteAt_toNat, le32_toNat, Nat.shiftRight_eq_div_pow] <;> omega

theorem takeField_toList (n : Nat) (bs : List Byte) (h : n ≤ bs.length) : (takeField n bs h).toList = bs.take n := rfl

theorem takeField_append {n : Nat} (k : Vector Byte n) (rest : List Byte)
    (h : n ≤ (k.toList ++ rest).length) : takeField n (k.toList ++ rest) h = k := by
  apply Vector.toList_inj.mp
  rw [takeField_toList]
  simp

end Sys2Proof
end

