-- ==== Sys2Proof/Laws/Lanes.lean ====
section
/-! SUPPORT. Everything a step of a lane can do, once. -/

namespace Sys2Proof.Machine

@[simp] theorem Lane.take_nil : (Lane.take []).seq = .idle := rfl

@[simp] theorem Lane.take_cons (c : Nat) (rest : List Nat) :
    (Lane.take (c :: rest)).seq = .inject ∧ (Lane.take (c :: rest)).chunk = c ∧ (Lane.take (c :: rest)).queue = rest :=
  ⟨rfl, rfl, rfl⟩

/-- A step names no lane and changes nothing, or it changes one lane, and OBUF as that lane's position says. -/
theorem laneStep_cases (r : LaneRun) (n : Nat) :
    (r.lanes[n]? = none ∧ laneStep r n = r) ∨
      ∃ before l behind, r.lanes = before ++ l :: behind ∧
        laneStep r n = { r with obuf := laneOutput r l, lanes := before ++ laneMicro r l :: behind } := by
  unfold laneStep
  split
  · exact .inl ⟨‹_›, rfl⟩
  · rename_i l h
    obtain ⟨hn, hl⟩ := List.getElem?_eq_some_iff.mp h
    have hs : r.lanes = r.lanes.take n ++ l :: r.lanes.drop (n + 1) := by
      rw [← hl, ← List.drop_eq_getElem_cons hn, List.take_append_drop]
    refine .inr ⟨r.lanes.take n, l, r.lanes.drop (n + 1), hs, ?_⟩
    rw [List.set_eq_take_append_cons_drop, if_pos hn]

/-- What the lanes share is never written (R160). -/
theorem laneStep_shared (r : LaneRun) (n : Nat) :
    (laneStep r n).key = r.key ∧ (laneStep r n).nonce = r.nonce ∧ (laneStep r n).start = r.start ∧
      (laneStep r n).dbuf = r.dbuf := by
  unfold laneStep
  split <;> exact ⟨rfl, rfl, rfl, rfl⟩

end Sys2Proof.Machine
end

