-- ==== Sys2Proof/Laws/Matrix.lean ====
section
/-! SUPPORT. The function level, word by word: QRX, INIT, the feed-forward and the serialisation at one index. -/

namespace Sys2Proof.Machine

/-- QRX at one index (R112). -/
theorem qrx_getElem (m : StateMatrix) (g : Group) (i : Nat) (hi : i < 16) :
    (qrx m g)[i] =
      if g.id.val = i then (qr m[g.ia] m[g.ib] m[g.ic] m[g.id]).2.2.2
      else if g.ic.val = i then (qr m[g.ia] m[g.ib] m[g.ic] m[g.id]).2.2.1
      else if g.ib.val = i then (qr m[g.ia] m[g.ib] m[g.ic] m[g.id]).2.1
      else if g.ia.val = i then (qr m[g.ia] m[g.ib] m[g.ic] m[g.id]).1
      else m[i] := by
  simp only [qrx, Vector.getElem_set]

/-- QRX leaves every other word (R112). -/
theorem qrx_other (m : StateMatrix) (g : Group) (i : Nat) (hi : i < 16) (ha : g.ia.val ≠ i) (hb : g.ib.val ≠ i)
    (hc : g.ic.val ≠ i) (hd : g.id.val ≠ i) : (qrx m g)[i] = m[i] := by
  simp [qrx_getElem, ha, hb, hc, hd]

theorem feedfwdFn_getElem (p q : StateMatrix) (i : Nat) (hi : i < 16) : (feedfwdFn p q)[i] = add32 p[i] q[i] := by
  simp [feedfwdFn]

theorem serialize_getElem (y : StateMatrix) (k : Nat) (hk : k < 64) :
    (serialize y)[k] = byteAt (y[k / 4]) (k % 4) := by
  simp [serialize]

/-- Injection into the base matrix is INIT (R131). -/
theorem injectFn_baseMatrix (key : Vector Word 8) (nonce : Vector Word 3) (ctr : Word) :
    injectFn (baseMatrix key nonce) ctr = initMatrix key nonce ctr := rfl

/-- KSBLOCK by its stages (R135). -/
theorem ksBlock_eq (key : Vector Word 8) (nonce : Vector Word 3) (ctr : Word) :
    ksBlock key nonce ctr =
      serialize (feedfwdFn (permute (initMatrix key nonce ctr)) (initMatrix key nonce ctr)) := rfl

theorem doubleRounds_succ (n : Nat) (m : StateMatrix) : doubleRounds (n + 1) m = doubleRound (doubleRounds n m) := rfl

theorem permute_eq (m : StateMatrix) : permute m = doubleRounds 10 m := rfl

theorem slotsUpTo_zero (m : StateMatrix) : slotsUpTo 0 m = m := rfl

theorem slotsUpTo_succ (slot : Fin 8) (m : StateMatrix) :
    slotsUpTo (slot.val + 1) m = qrSlot slot (slotsUpTo slot.val m) := by
  have h : Fin.ofNat 8 slot.val = slot := by ext; simp
  simp only [slotsUpTo, h]

/-- The eight slots in order are one double round (R122 to R124). -/
theorem slotsUpTo_eight (m : StateMatrix) : slotsUpTo 8 m = doubleRound m := rfl

end Sys2Proof.Machine
end

