-- ==== Sys2Proof/Laws/State.lean ====
section
/-! SUPPORT. One lemma per field per shared operation, so that no later proof unfolds a record update. -/

namespace Sys2Proof.Machine

section Reset

@[simp] theorem reset_keyv : State.reset.keyv = false := rfl
@[simp] theorem reset_noncev : State.reset.noncev = false := rfl
@[simp] theorem reset_fault : State.reset.fault = 0 := rfl
@[simp] theorem reset_j : State.reset.j = 0 := rfl
@[simp] theorem reset_seq : State.reset.seq = .idle := rfl
@[simp] theorem reset_mode : State.reset.mode = .block := rfl
@[simp] theorem reset_start : State.reset.start = 0 := rfl
@[simp] theorem reset_nchunks : State.reset.nchunks = 0 := rfl
@[simp] theorem reset_ci : State.reset.ci = 0 := rfl
@[simp] theorem reset_dbuf : State.reset.dbuf = [] := rfl
@[simp] theorem reset_obuf : State.reset.obuf = [] := rfl
@[simp] theorem reset_cmd : State.reset.cmd = [] := rfl
@[simp] theorem reset_rsp : State.reset.rsp = [] := rfl
@[simp] theorem reset_hwReset : State.reset.hwReset = false := rfl

end Reset

section RespondOk

variable (p : List Byte) (s : State)

@[simp] theorem respondOk_key : (respondOk p s).key = s.key := rfl
@[simp] theorem respondOk_nonce : (respondOk p s).nonce = s.nonce := rfl
@[simp] theorem respondOk_keyv : (respondOk p s).keyv = s.keyv := rfl
@[simp] theorem respondOk_noncev : (respondOk p s).noncev = s.noncev := rfl
@[simp] theorem respondOk_fault : (respondOk p s).fault = s.fault := rfl
@[simp] theorem respondOk_x : (respondOk p s).x = s.x := rfl
@[simp] theorem respondOk_j : (respondOk p s).j = s.j := rfl
@[simp] theorem respondOk_seq : (respondOk p s).seq = s.seq := rfl
@[simp] theorem respondOk_mode : (respondOk p s).mode = s.mode := rfl
@[simp] theorem respondOk_start : (respondOk p s).start = s.start := rfl
@[simp] theorem respondOk_nchunks : (respondOk p s).nchunks = s.nchunks := rfl
@[simp] theorem respondOk_ci : (respondOk p s).ci = s.ci := rfl
@[simp] theorem respondOk_ks : (respondOk p s).ks = s.ks := rfl
@[simp] theorem respondOk_dbuf : (respondOk p s).dbuf = s.dbuf := rfl
@[simp] theorem respondOk_obuf : (respondOk p s).obuf = s.obuf := rfl
@[simp] theorem respondOk_cmd : (respondOk p s).cmd = s.cmd := rfl
@[simp] theorem respondOk_rsp : (respondOk p s).rsp = s.rsp ++ rspOk :: p := rfl
@[simp] theorem respondOk_hwReset : (respondOk p s).hwReset = s.hwReset := rfl

end RespondOk

section RespondFault

variable (code : BitVec 4) (s : State)

@[simp] theorem respondFault_key : (respondFault code s).key = s.key := rfl
@[simp] theorem respondFault_nonce : (respondFault code s).nonce = s.nonce := rfl
@[simp] theorem respondFault_keyv : (respondFault code s).keyv = s.keyv := rfl
@[simp] theorem respondFault_noncev : (respondFault code s).noncev = s.noncev := rfl
@[simp] theorem respondFault_fault : (respondFault code s).fault = s.fault := rfl
@[simp] theorem respondFault_x : (respondFault code s).x = s.x := rfl
@[simp] theorem respondFault_j : (respondFault code s).j = s.j := rfl
@[simp] theorem respondFault_seq : (respondFault code s).seq = s.seq := rfl
@[simp] theorem respondFault_mode : (respondFault code s).mode = s.mode := rfl
@[simp] theorem respondFault_start : (respondFault code s).start = s.start := rfl
@[simp] theorem respondFault_nchunks : (respondFault code s).nchunks = s.nchunks := rfl
@[simp] theorem respondFault_ci : (respondFault code s).ci = s.ci := rfl
@[simp] theorem respondFault_ks : (respondFault code s).ks = s.ks := rfl
@[simp] theorem respondFault_dbuf : (respondFault code s).dbuf = s.dbuf := rfl
@[simp] theorem respondFault_obuf : (respondFault code s).obuf = s.obuf := rfl
@[simp] theorem respondFault_cmd : (respondFault code s).cmd = s.cmd := rfl
@[simp] theorem respondFault_rsp : (respondFault code s).rsp = s.rsp ++ [rspFault code] := rfl
@[simp] theorem respondFault_hwReset : (respondFault code s).hwReset = s.hwReset := rfl

end RespondFault

section ResetCore

variable (s : State)

@[simp] theorem resetCore_key : (resetCore s).key = State.reset.key := rfl
@[simp] theorem resetCore_nonce : (resetCore s).nonce = State.reset.nonce := rfl
@[simp] theorem resetCore_keyv : (resetCore s).keyv = false := rfl
@[simp] theorem resetCore_noncev : (resetCore s).noncev = false := rfl
@[simp] theorem resetCore_fault : (resetCore s).fault = 0 := rfl
@[simp] theorem resetCore_x : (resetCore s).x = State.reset.x := rfl
@[simp] theorem resetCore_j : (resetCore s).j = 0 := rfl
@[simp] theorem resetCore_seq : (resetCore s).seq = .idle := rfl
@[simp] theorem resetCore_mode : (resetCore s).mode = .block := rfl
@[simp] theorem resetCore_start : (resetCore s).start = 0 := rfl
@[simp] theorem resetCore_nchunks : (resetCore s).nchunks = 0 := rfl
@[simp] theorem resetCore_ci : (resetCore s).ci = 0 := rfl
@[simp] theorem resetCore_ks : (resetCore s).ks = State.reset.ks := rfl
@[simp] theorem resetCore_dbuf : (resetCore s).dbuf = [] := rfl
@[simp] theorem resetCore_obuf : (resetCore s).obuf = [] := rfl
@[simp] theorem resetCore_cmd : (resetCore s).cmd = s.cmd := rfl
@[simp] theorem resetCore_rsp : (resetCore s).rsp = s.rsp := rfl
@[simp] theorem resetCore_hwReset : (resetCore s).hwReset = s.hwReset := rfl

end ResetCore

section HardwareReset

variable (s : State)

@[simp] theorem hardwareReset_key : (hardwareReset s).key = State.reset.key := rfl
@[simp] theorem hardwareReset_nonce : (hardwareReset s).nonce = State.reset.nonce := rfl
@[simp] theorem hardwareReset_keyv : (hardwareReset s).keyv = false := rfl
@[simp] theorem hardwareReset_noncev : (hardwareReset s).noncev = false := rfl
@[simp] theorem hardwareReset_fault : (hardwareReset s).fault = 0 := rfl
@[simp] theorem hardwareReset_x : (hardwareReset s).x = State.reset.x := rfl
@[simp] theorem hardwareReset_j : (hardwareReset s).j = 0 := rfl
@[simp] theorem hardwareReset_seq : (hardwareReset s).seq = .idle := rfl
@[simp] theorem hardwareReset_mode : (hardwareReset s).mode = .block := rfl
@[simp] theorem hardwareReset_start : (hardwareReset s).start = 0 := rfl
@[simp] theorem hardwareReset_nchunks : (hardwareReset s).nchunks = 0 := rfl
@[simp] theorem hardwareReset_ci : (hardwareReset s).ci = 0 := rfl
@[simp] theorem hardwareReset_ks : (hardwareReset s).ks = State.reset.ks := rfl
@[simp] theorem hardwareReset_dbuf : (hardwareReset s).dbuf = [] := rfl
@[simp] theorem hardwareReset_obuf : (hardwareReset s).obuf = [] := rfl
@[simp] theorem hardwareReset_cmd : (hardwareReset s).cmd = s.cmd := rfl
@[simp] theorem hardwareReset_rsp : (hardwareReset s).rsp = s.rsp := rfl
@[simp] theorem hardwareReset_hwReset : (hardwareReset s).hwReset = false := rfl

end HardwareReset

section ClearHidden

variable (s : State)

@[simp] theorem clearHidden_key : (clearHidden s).key = s.key := rfl
@[simp] theorem clearHidden_nonce : (clearHidden s).nonce = s.nonce := rfl
@[simp] theorem clearHidden_keyv : (clearHidden s).keyv = s.keyv := rfl
@[simp] theorem clearHidden_noncev : (clearHidden s).noncev = s.noncev := rfl
@[simp] theorem clearHidden_fault : (clearHidden s).fault = s.fault := rfl
@[simp] theorem clearHidden_x : (clearHidden s).x = State.reset.x := rfl
@[simp] theorem clearHidden_j : (clearHidden s).j = 0 := rfl
@[simp] theorem clearHidden_seq : (clearHidden s).seq = .idle := rfl
@[simp] theorem clearHidden_mode : (clearHidden s).mode = .block := rfl
@[simp] theorem clearHidden_start : (clearHidden s).start = 0 := rfl
@[simp] theorem clearHidden_nchunks : (clearHidden s).nchunks = 0 := rfl
@[simp] theorem clearHidden_ci : (clearHidden s).ci = 0 := rfl
@[simp] theorem clearHidden_ks : (clearHidden s).ks = State.reset.ks := rfl
@[simp] theorem clearHidden_dbuf : (clearHidden s).dbuf = [] := rfl
@[simp] theorem clearHidden_obuf : (clearHidden s).obuf = [] := rfl
@[simp] theorem clearHidden_cmd : (clearHidden s).cmd = s.cmd := rfl
@[simp] theorem clearHidden_rsp : (clearHidden s).rsp = s.rsp := rfl
@[simp] theorem clearHidden_hwReset : (clearHidden s).hwReset = s.hwReset := rfl

end ClearHidden

section FaultEntry

variable (code : BitVec 4) (s : State)

@[simp] theorem faultEntry_key : (faultEntry code s).key = State.reset.key := rfl
@[simp] theorem faultEntry_nonce : (faultEntry code s).nonce = State.reset.nonce := rfl
@[simp] theorem faultEntry_keyv : (faultEntry code s).keyv = false := rfl
@[simp] theorem faultEntry_noncev : (faultEntry code s).noncev = false := rfl
@[simp] theorem faultEntry_fault : (faultEntry code s).fault = code := rfl
@[simp] theorem faultEntry_x : (faultEntry code s).x = State.reset.x := rfl
@[simp] theorem faultEntry_j : (faultEntry code s).j = 0 := rfl
@[simp] theorem faultEntry_seq : (faultEntry code s).seq = .idle := rfl
@[simp] theorem faultEntry_mode : (faultEntry code s).mode = .block := rfl
@[simp] theorem faultEntry_start : (faultEntry code s).start = 0 := rfl
@[simp] theorem faultEntry_nchunks : (faultEntry code s).nchunks = 0 := rfl
@[simp] theorem faultEntry_ci : (faultEntry code s).ci = 0 := rfl
@[simp] theorem faultEntry_ks : (faultEntry code s).ks = State.reset.ks := rfl
@[simp] theorem faultEntry_dbuf : (faultEntry code s).dbuf = [] := rfl
@[simp] theorem faultEntry_obuf : (faultEntry code s).obuf = [] := rfl
@[simp] theorem faultEntry_cmd : (faultEntry code s).cmd = s.cmd := rfl
@[simp] theorem faultEntry_rsp : (faultEntry code s).rsp = s.rsp ++ [rspFault code] := rfl
@[simp] theorem faultEntry_hwReset : (faultEntry code s).hwReset = s.hwReset := rfl

end FaultEntry

section AnswerFaulted

variable (s : State)

@[simp] theorem answerFaulted_key : (answerFaulted s).key = s.key := rfl
@[simp] theorem answerFaulted_nonce : (answerFaulted s).nonce = s.nonce := rfl
@[simp] theorem answerFaulted_keyv : (answerFaulted s).keyv = s.keyv := rfl
@[simp] theorem answerFaulted_noncev : (answerFaulted s).noncev = s.noncev := rfl
@[simp] theorem answerFaulted_fault : (answerFaulted s).fault = s.fault := rfl
@[simp] theorem answerFaulted_x : (answerFaulted s).x = s.x := rfl
@[simp] theorem answerFaulted_j : (answerFaulted s).j = s.j := rfl
@[simp] theorem answerFaulted_seq : (answerFaulted s).seq = s.seq := rfl
@[simp] theorem answerFaulted_mode : (answerFaulted s).mode = s.mode := rfl
@[simp] theorem answerFaulted_start : (answerFaulted s).start = s.start := rfl
@[simp] theorem answerFaulted_nchunks : (answerFaulted s).nchunks = s.nchunks := rfl
@[simp] theorem answerFaulted_ci : (answerFaulted s).ci = s.ci := rfl
@[simp] theorem answerFaulted_ks : (answerFaulted s).ks = s.ks := rfl
@[simp] theorem answerFaulted_dbuf : (answerFaulted s).dbuf = s.dbuf := rfl
@[simp] theorem answerFaulted_obuf : (answerFaulted s).obuf = s.obuf := rfl
@[simp] theorem answerFaulted_cmd : (answerFaulted s).cmd = s.cmd := rfl
@[simp] theorem answerFaulted_rsp : (answerFaulted s).rsp = s.rsp ++ [rspFault codeFaulted] := rfl
@[simp] theorem answerFaulted_hwReset : (answerFaulted s).hwReset = s.hwReset := rfl

end AnswerFaulted

section StartBlock

variable (ctr : Word) (s : State)

@[simp] theorem startBlock_key : (startBlock ctr s).key = s.key := rfl
@[simp] theorem startBlock_nonce : (startBlock ctr s).nonce = s.nonce := rfl
@[simp] theorem startBlock_keyv : (startBlock ctr s).keyv = s.keyv := rfl
@[simp] theorem startBlock_noncev : (startBlock ctr s).noncev = s.noncev := rfl
@[simp] theorem startBlock_fault : (startBlock ctr s).fault = s.fault := rfl
@[simp] theorem startBlock_x : (startBlock ctr s).x = s.x := rfl
@[simp] theorem startBlock_j : (startBlock ctr s).j = s.j := rfl
@[simp] theorem startBlock_seq : (startBlock ctr s).seq = .inject := rfl
@[simp] theorem startBlock_mode : (startBlock ctr s).mode = .block := rfl
@[simp] theorem startBlock_start : (startBlock ctr s).start = ctr := rfl
@[simp] theorem startBlock_nchunks : (startBlock ctr s).nchunks = s.nchunks := rfl
@[simp] theorem startBlock_ci : (startBlock ctr s).ci = 0 := rfl
@[simp] theorem startBlock_ks : (startBlock ctr s).ks = s.ks := rfl
@[simp] theorem startBlock_dbuf : (startBlock ctr s).dbuf = s.dbuf := rfl
@[simp] theorem startBlock_obuf : (startBlock ctr s).obuf = s.obuf := rfl
@[simp] theorem startBlock_cmd : (startBlock ctr s).cmd = s.cmd := rfl
@[simp] theorem startBlock_rsp : (startBlock ctr s).rsp = s.rsp := rfl
@[simp] theorem startBlock_hwReset : (startBlock ctr s).hwReset = s.hwReset := rfl

end StartBlock

section StartProcess

variable (ctr : Word) (data : List Byte) (s : State)

@[simp] theorem startProcess_key : (startProcess ctr data s).key = s.key := rfl
@[simp] theorem startProcess_nonce : (startProcess ctr data s).nonce = s.nonce := rfl
@[simp] theorem startProcess_keyv : (startProcess ctr data s).keyv = s.keyv := rfl
@[simp] theorem startProcess_noncev : (startProcess ctr data s).noncev = s.noncev := rfl
@[simp] theorem startProcess_fault : (startProcess ctr data s).fault = s.fault := rfl
@[simp] theorem startProcess_x : (startProcess ctr data s).x = s.x := rfl
@[simp] theorem startProcess_j : (startProcess ctr data s).j = s.j := rfl
@[simp] theorem startProcess_seq : (startProcess ctr data s).seq = .inject := rfl
@[simp] theorem startProcess_mode : (startProcess ctr data s).mode = .process := rfl
@[simp] theorem startProcess_start : (startProcess ctr data s).start = ctr := rfl
@[simp] theorem startProcess_nchunks : (startProcess ctr data s).nchunks = BitVec.ofNat 33 (chunkCount data.length) := rfl
@[simp] theorem startProcess_ci : (startProcess ctr data s).ci = 0 := rfl
@[simp] theorem startProcess_ks : (startProcess ctr data s).ks = s.ks := rfl
@[simp] theorem startProcess_dbuf : (startProcess ctr data s).dbuf = data := rfl
@[simp] theorem startProcess_obuf : (startProcess ctr data s).obuf = List.replicate data.length 0 := rfl
@[simp] theorem startProcess_cmd : (startProcess ctr data s).cmd = s.cmd := rfl
@[simp] theorem startProcess_rsp : (startProcess ctr data s).rsp = s.rsp := rfl
@[simp] theorem startProcess_hwReset : (startProcess ctr data s).hwReset = s.hwReset := rfl

end StartProcess

section QrStep

variable (slot : Fin 8) (iter : Fin 10) (s : State)

@[simp] theorem qrStep_key : (qrStep slot iter s).key = s.key := rfl
@[simp] theorem qrStep_nonce : (qrStep slot iter s).nonce = s.nonce := rfl
@[simp] theorem qrStep_keyv : (qrStep slot iter s).keyv = s.keyv := rfl
@[simp] theorem qrStep_noncev : (qrStep slot iter s).noncev = s.noncev := rfl
@[simp] theorem qrStep_fault : (qrStep slot iter s).fault = s.fault := rfl
@[simp] theorem qrStep_x : (qrStep slot iter s).x = qrSlot slot s.x := rfl
@[simp] theorem qrStep_j : (qrStep slot iter s).j = s.j := rfl
@[simp] theorem qrStep_seq : (qrStep slot iter s).seq = qrAdvance iter slot := rfl
@[simp] theorem qrStep_mode : (qrStep slot iter s).mode = s.mode := rfl
@[simp] theorem qrStep_start : (qrStep slot iter s).start = s.start := rfl
@[simp] theorem qrStep_nchunks : (qrStep slot iter s).nchunks = s.nchunks := rfl
@[simp] theorem qrStep_ci : (qrStep slot iter s).ci = s.ci := rfl
@[simp] theorem qrStep_ks : (qrStep slot iter s).ks = s.ks := rfl
@[simp] theorem qrStep_dbuf : (qrStep slot iter s).dbuf = s.dbuf := rfl
@[simp] theorem qrStep_obuf : (qrStep slot iter s).obuf = s.obuf := rfl
@[simp] theorem qrStep_cmd : (qrStep slot iter s).cmd = s.cmd := rfl
@[simp] theorem qrStep_rsp : (qrStep slot iter s).rsp = s.rsp := rfl
@[simp] theorem qrStep_hwReset : (qrStep slot iter s).hwReset = s.hwReset := rfl

end QrStep

section DoInject

variable (s : State)

@[simp] theorem doInject_key : (doInject s).key = s.key := rfl
@[simp] theorem doInject_nonce : (doInject s).nonce = s.nonce := rfl
@[simp] theorem doInject_keyv : (doInject s).keyv = s.keyv := rfl
@[simp] theorem doInject_noncev : (doInject s).noncev = s.noncev := rfl
@[simp] theorem doInject_fault : (doInject s).fault = s.fault := rfl
@[simp] theorem doInject_x : (doInject s).x = initMatrix s.key s.nonce (chunkCounter s.start s.ci.toNat) := rfl
@[simp] theorem doInject_j : (doInject s).j = chunkCounter s.start s.ci.toNat := rfl
@[simp] theorem doInject_seq : (doInject s).seq = .round 0 0 := rfl
@[simp] theorem doInject_mode : (doInject s).mode = s.mode := rfl
@[simp] theorem doInject_start : (doInject s).start = s.start := rfl
@[simp] theorem doInject_nchunks : (doInject s).nchunks = s.nchunks := rfl
@[simp] theorem doInject_ci : (doInject s).ci = s.ci := rfl
@[simp] theorem doInject_ks : (doInject s).ks = s.ks := rfl
@[simp] theorem doInject_dbuf : (doInject s).dbuf = s.dbuf := rfl
@[simp] theorem doInject_obuf : (doInject s).obuf = s.obuf := rfl
@[simp] theorem doInject_cmd : (doInject s).cmd = s.cmd := rfl
@[simp] theorem doInject_rsp : (doInject s).rsp = s.rsp := rfl
@[simp] theorem doInject_hwReset : (doInject s).hwReset = s.hwReset := rfl

end DoInject

section DoFeedfwd

variable (s : State)

@[simp] theorem doFeedfwd_key : (doFeedfwd s).key = s.key := rfl
@[simp] theorem doFeedfwd_nonce : (doFeedfwd s).nonce = s.nonce := rfl
@[simp] theorem doFeedfwd_keyv : (doFeedfwd s).keyv = s.keyv := rfl
@[simp] theorem doFeedfwd_noncev : (doFeedfwd s).noncev = s.noncev := rfl
@[simp] theorem doFeedfwd_fault : (doFeedfwd s).fault = s.fault := rfl
@[simp] theorem doFeedfwd_x : (doFeedfwd s).x = feedfwdFn s.x (initMatrix s.key s.nonce s.j) := rfl
@[simp] theorem doFeedfwd_j : (doFeedfwd s).j = s.j := rfl
@[simp] theorem doFeedfwd_seq : (doFeedfwd s).seq = .emit := rfl
@[simp] theorem doFeedfwd_mode : (doFeedfwd s).mode = s.mode := rfl
@[simp] theorem doFeedfwd_start : (doFeedfwd s).start = s.start := rfl
@[simp] theorem doFeedfwd_nchunks : (doFeedfwd s).nchunks = s.nchunks := rfl
@[simp] theorem doFeedfwd_ci : (doFeedfwd s).ci = s.ci := rfl
@[simp] theorem doFeedfwd_ks : (doFeedfwd s).ks = s.ks := rfl
@[simp] theorem doFeedfwd_dbuf : (doFeedfwd s).dbuf = s.dbuf := rfl
@[simp] theorem doFeedfwd_obuf : (doFeedfwd s).obuf = s.obuf := rfl
@[simp] theorem doFeedfwd_cmd : (doFeedfwd s).cmd = s.cmd := rfl
@[simp] theorem doFeedfwd_rsp : (doFeedfwd s).rsp = s.rsp := rfl
@[simp] theorem doFeedfwd_hwReset : (doFeedfwd s).hwReset = s.hwReset := rfl

end DoFeedfwd

section HostSend

variable (bs : List Byte) (s : State)

@[simp] theorem hostSend_key : (hostSend bs s).key = s.key := rfl
@[simp] theorem hostSend_nonce : (hostSend bs s).nonce = s.nonce := rfl
@[simp] theorem hostSend_keyv : (hostSend bs s).keyv = s.keyv := rfl
@[simp] theorem hostSend_noncev : (hostSend bs s).noncev = s.noncev := rfl
@[simp] theorem hostSend_fault : (hostSend bs s).fault = s.fault := rfl
@[simp] theorem hostSend_x : (hostSend bs s).x = s.x := rfl
@[simp] theorem hostSend_j : (hostSend bs s).j = s.j := rfl
@[simp] theorem hostSend_seq : (hostSend bs s).seq = s.seq := rfl
@[simp] theorem hostSend_mode : (hostSend bs s).mode = s.mode := rfl
@[simp] theorem hostSend_start : (hostSend bs s).start = s.start := rfl
@[simp] theorem hostSend_nchunks : (hostSend bs s).nchunks = s.nchunks := rfl
@[simp] theorem hostSend_ci : (hostSend bs s).ci = s.ci := rfl
@[simp] theorem hostSend_ks : (hostSend bs s).ks = s.ks := rfl
@[simp] theorem hostSend_dbuf : (hostSend bs s).dbuf = s.dbuf := rfl
@[simp] theorem hostSend_obuf : (hostSend bs s).obuf = s.obuf := rfl
@[simp] theorem hostSend_cmd : (hostSend bs s).cmd = s.cmd ++ bs := rfl
@[simp] theorem hostSend_rsp : (hostSend bs s).rsp = s.rsp := rfl
@[simp] theorem hostSend_hwReset : (hostSend bs s).hwReset = s.hwReset := rfl

end HostSend

section HostReset

variable (s : State)

@[simp] theorem hostReset_key : (hostReset s).key = s.key := rfl
@[simp] theorem hostReset_nonce : (hostReset s).nonce = s.nonce := rfl
@[simp] theorem hostReset_keyv : (hostReset s).keyv = s.keyv := rfl
@[simp] theorem hostReset_noncev : (hostReset s).noncev = s.noncev := rfl
@[simp] theorem hostReset_fault : (hostReset s).fault = s.fault := rfl
@[simp] theorem hostReset_x : (hostReset s).x = s.x := rfl
@[simp] theorem hostReset_j : (hostReset s).j = s.j := rfl
@[simp] theorem hostReset_seq : (hostReset s).seq = s.seq := rfl
@[simp] theorem hostReset_mode : (hostReset s).mode = s.mode := rfl
@[simp] theorem hostReset_start : (hostReset s).start = s.start := rfl
@[simp] theorem hostReset_nchunks : (hostReset s).nchunks = s.nchunks := rfl
@[simp] theorem hostReset_ci : (hostReset s).ci = s.ci := rfl
@[simp] theorem hostReset_ks : (hostReset s).ks = s.ks := rfl
@[simp] theorem hostReset_dbuf : (hostReset s).dbuf = s.dbuf := rfl
@[simp] theorem hostReset_obuf : (hostReset s).obuf = s.obuf := rfl
@[simp] theorem hostReset_cmd : (hostReset s).cmd = s.cmd := rfl
@[simp] theorem hostReset_rsp : (hostReset s).rsp = s.rsp := rfl
@[simp] theorem hostReset_hwReset : (hostReset s).hwReset = true := rfl

end HostReset

section Branching

variable (s : State)

@[simp] theorem doEmit_key : (doEmit s).key = s.key := by unfold doEmit; split <;> rfl
@[simp] theorem doXorchunk_key : (doXorchunk s).key = s.key := by unfold doXorchunk; split <;> rfl
@[simp] theorem doEmit_nonce : (doEmit s).nonce = s.nonce := by unfold doEmit; split <;> rfl
@[simp] theorem doXorchunk_nonce : (doXorchunk s).nonce = s.nonce := by unfold doXorchunk; split <;> rfl
@[simp] theorem doEmit_keyv : (doEmit s).keyv = s.keyv := by unfold doEmit; split <;> rfl
@[simp] theorem doXorchunk_keyv : (doXorchunk s).keyv = s.keyv := by unfold doXorchunk; split <;> rfl
@[simp] theorem doEmit_noncev : (doEmit s).noncev = s.noncev := by unfold doEmit; split <;> rfl
@[simp] theorem doXorchunk_noncev : (doXorchunk s).noncev = s.noncev := by unfold doXorchunk; split <;> rfl
@[simp] theorem doEmit_fault : (doEmit s).fault = s.fault := by unfold doEmit; split <;> rfl
@[simp] theorem doXorchunk_fault : (doXorchunk s).fault = s.fault := by unfold doXorchunk; split <;> rfl
@[simp] theorem doEmit_cmd : (doEmit s).cmd = s.cmd := by unfold doEmit; split <;> rfl
@[simp] theorem doXorchunk_cmd : (doXorchunk s).cmd = s.cmd := by unfold doXorchunk; split <;> rfl
@[simp] theorem doEmit_hwReset : (doEmit s).hwReset = s.hwReset := by unfold doEmit; split <;> rfl
@[simp] theorem doXorchunk_hwReset : (doXorchunk s).hwReset = s.hwReset := by unfold doXorchunk; split <;> rfl
@[simp] theorem doEmit_x : (doEmit s).x = State.reset.x := by unfold doEmit; split <;> rfl
@[simp] theorem doXorchunk_x : (doXorchunk s).x = s.x := by unfold doXorchunk; split <;> rfl
@[simp] theorem doEmit_j : (doEmit s).j = State.reset.j := by unfold doEmit; split <;> rfl
@[simp] theorem doXorchunk_j : (doXorchunk s).j = s.j := by unfold doXorchunk; split <;> rfl

end Branching

end Sys2Proof.Machine
end

