-- ==== Sys2Proof/Laws/Ops.lean ====
section
/-! SUPPORT. What each shared operation can do, said once: the order of checks of R170, the acceptance of PROCESS, the
two micro-operations that may end a command, the sequencer advance. -/

namespace Sys2Proof.Machine

/-- RESET and STATUS: the command waits, or it is accepted. -/
theorem whenIdle_cases (s a : State) : (s.seq ≠ .idle ∧ whenIdle s a = s) ∨ (s.seq = .idle ∧ whenIdle s a = a) := by
  unfold whenIdle
  split
  · exact .inr ⟨‹_›, rfl⟩
  · exact .inl ⟨‹_›, rfl⟩

theorem whenIdle_accept {s : State} (a : State) (h : s.seq = .idle) : whenIdle s a = a := if_pos h

theorem whenIdle_busy {s : State} (a : State) (h : s.seq ≠ .idle) : whenIdle s a = s := if_neg h

theorem whenOperational_accept {s : State} (a : State) (h : s.seq = .idle) (hf : s.fault = 0) :
    whenOperational s a = a := (whenIdle_accept _ h).trans (if_neg (not_not_intro hf))

theorem whenOperational_faulted {s : State} (a : State) (h : s.seq = .idle) (hf : s.fault ≠ 0) :
    whenOperational s a = answerFaulted s := (whenIdle_accept _ h).trans (if_pos hf)

theorem whenOperational_busy {s : State} (a : State) (h : s.seq ≠ .idle) : whenOperational s a = s := if_neg h

theorem whenLoaded_accept {s : State} (a : State) (h : s.seq = .idle) (hf : s.fault = 0) (hl : loaded s = true) :
    whenLoaded s a = a := (whenOperational_accept _ h hf).trans (if_pos hl)

theorem whenLoaded_notLoaded {s : State} (a : State) (h : s.seq = .idle) (hf : s.fault = 0) (hl : loaded s = false) :
    whenLoaded s a = faultEntry codeNotLoaded s := by simp [whenLoaded, whenOperational_accept _ h hf, hl]

theorem whenLoaded_faulted {s : State} (a : State) (h : s.seq = .idle) (hf : s.fault ≠ 0) :
    whenLoaded s a = answerFaulted s := whenOperational_faulted _ h hf

theorem whenLoaded_busy {s : State} (a : State) (h : s.seq ≠ .idle) : whenLoaded s a = s := if_neg h

/-- A load or an illegal byte: it waits, is answered Faulted, or is accepted. -/
theorem whenOperational_cases (s a : State) :
    (s.seq ≠ .idle ∧ whenOperational s a = s) ∨
      (s.seq = .idle ∧ s.fault ≠ 0 ∧ whenOperational s a = answerFaulted s) ∨
      (s.seq = .idle ∧ s.fault = 0 ∧ whenOperational s a = a) := by
  by_cases h : s.seq = .idle
  · by_cases hf : s.fault = 0
    · exact .inr (.inr ⟨h, hf, whenOperational_accept a h hf⟩)
    · exact .inr (.inl ⟨h, hf, whenOperational_faulted a h hf⟩)
  · exact .inl ⟨h, whenOperational_busy a h⟩

/-- BLOCK or PROCESS: it waits, is answered Faulted, raises NotLoaded, or passes the checks. -/
theorem whenLoaded_cases (s a : State) :
    (s.seq ≠ .idle ∧ whenLoaded s a = s) ∨
      (s.seq = .idle ∧ s.fault ≠ 0 ∧ whenLoaded s a = answerFaulted s) ∨
      (s.seq = .idle ∧ s.fault = 0 ∧ loaded s = false ∧ whenLoaded s a = faultEntry codeNotLoaded s) ∨
      (s.seq = .idle ∧ s.fault = 0 ∧ loaded s = true ∧ whenLoaded s a = a) := by
  by_cases h : s.seq = .idle
  · by_cases hf : s.fault = 0
    · cases hl : loaded s
      · exact .inr (.inr (.inl ⟨h, hf, rfl, whenLoaded_notLoaded a h hf hl⟩))
      · exact .inr (.inr (.inr ⟨h, hf, rfl, whenLoaded_accept a h hf hl⟩))
    · exact .inr (.inl ⟨h, hf, whenLoaded_faulted a h hf⟩)
  · exact .inl ⟨h, whenLoaded_busy a h⟩

theorem loaded_eq_true {s : State} : loaded s = true ↔ s.keyv = true ∧ s.noncev = true := by simp [loaded]

/-- PROCESS past the loaded check: CounterOverflow, the empty answer, or the chunk loop. -/
theorem acceptProcess_cases (ctr : Word) (data : List Byte) (s : State) :
    (counterOverflow ctr data.length = true ∧ acceptProcess ctr data s = faultEntry codeCounterOverflow s) ∨
      (counterOverflow ctr data.length = false ∧ chunkCount data.length = 0 ∧
        acceptProcess ctr data s = respondOk [] s) ∨
      (counterOverflow ctr data.length = false ∧ chunkCount data.length ≠ 0 ∧
        acceptProcess ctr data s = startProcess ctr data s) := by
  unfold acceptProcess
  cases h : counterOverflow ctr data.length <;> by_cases hn : chunkCount data.length = 0 <;> simp [hn]

/-- INJECT with its two results named, so that a proof about the other fields never unfolds them. -/
theorem doInject_spec (s : State) :
    ∃ j x, j = chunkCounter s.start s.ci.toNat ∧ x = initMatrix s.key s.nonce j ∧
      doInject s = { s with j := j, x := x, seq := .round 0 0 } := ⟨_, _, rfl, rfl, rfl⟩

/-- A quarter-round with its two results named. -/
theorem qrStep_spec (slot : Fin 8) (iter : Fin 10) (s : State) :
    ∃ x q, x = qrSlot slot s.x ∧ q = qrAdvance iter slot ∧ qrStep slot iter s = { s with x := x, seq := q } :=
  ⟨_, _, rfl, rfl, rfl⟩

/-- FEEDFWD with its result named. -/
theorem doFeedfwd_spec (s : State) :
    ∃ x, x = feedfwdFn s.x (initMatrix s.key s.nonce s.j) ∧ doFeedfwd s = { s with x := x, seq := .emit } :=
  ⟨_, rfl, rfl⟩

theorem doEmit_block {s : State} (h : s.mode = .block) :
    doEmit s = respondOk (serialize s.x).toList
      { s with
        x := State.reset.x, j := 0, ks := State.reset.ks, start := 0, nchunks := 0, ci := 0, seq := .idle } := by
  simp [doEmit, h]

theorem doEmit_process {s : State} (h : s.mode = .process) :
    doEmit s = { s with ks := serialize s.x, x := State.reset.x, j := 0, seq := .xorchunk } := by
  simp [doEmit, h]

/-- XORCHUNK goes on to the next chunk. -/
theorem doXorchunk_next {s : State} (h : (nextChunk s.ci).toNat < s.nchunks.toNat) :
    doXorchunk s =
      { s with obuf := xoredBuffer s, ks := State.reset.ks, ci := nextChunk s.ci, seq := .inject } := if_pos h

/-- XORCHUNK answers the command. -/
theorem doXorchunk_last {s : State} (h : ¬(nextChunk s.ci).toNat < s.nchunks.toNat) :
    doXorchunk s =
      respondOk (xoredBuffer s)
        { s with
          ks := State.reset.ks, dbuf := [], obuf := [], mode := .block, start := 0, nchunks := 0, ci := 0,
          seq := .idle } := if_neg h

theorem nextChunk_toNat {ci : BitVec 33} (h : ci.toNat + 1 < 2 ^ 33) : (nextChunk ci).toNat = ci.toNat + 1 := by
  have h1 : (1 : BitVec 33).toNat = 1 := rfl
  simp only [nextChunk, h, if_true, BitVec.toNat_add, h1]
  omega

/-- The three ways a quarter-round advances SEQ (R140). -/
theorem qrAdvance_cases (iter : Fin 10) (slot : Fin 8) :
    (∃ slot' : Fin 8, slot'.val = slot.val + 1 ∧ qrAdvance iter slot = .round iter slot') ∨
      (∃ iter' : Fin 10, slot.val = 7 ∧ iter'.val = iter.val + 1 ∧ qrAdvance iter slot = .round iter' 0) ∨
      (slot.val = 7 ∧ iter.val = 9 ∧ qrAdvance iter slot = .feedfwd) := by
  unfold qrAdvance
  split
  · exact .inl ⟨_, by simp; omega, rfl⟩
  · split
    · exact .inr (.inl ⟨_, by omega, by simp; omega, rfl⟩)
    · exact .inr (.inr ⟨by omega, by omega, rfl⟩)

end Sys2Proof.Machine
end

