-- ==== Sys2Proof/Laws/PerInstr.lean ====
section
/-! SUPPORT. EncodedLength, one lemma per instruction: the bytes of a command are exactly as many as its own bytes say
(spec/30_encoding.md R75, R84), and the SEQ value of a micro-operation is not IDLE's (R80). -/

namespace Sys2Proof.Laws.EncodedLength

open Sys2Proof.Machine (bytes32 leBytes)

/-- A well-formed instruction's encoding has the length the decoder reads from it. -/
def Statement (i : Instr) : Prop :=
  i.wellFormed = true →
    match encode i with
    | .bytes bs => bs.length = commandLength bs
    | .seq w => w ≠ seqWord .idle

theorem round_ne (iter : Fin 10) (slot : Fin 8) : seqWord (.round iter slot) ≠ seqWord .idle := by
  revert iter slot
  decide

theorem reset : Statement .reset := fun _ => rfl

theorem status : Statement .status := fun _ => rfl

theorem loadkey (k : Vector Byte 32) : Statement (.loadkey k) := fun _ => by simp [encode, commandLength]

theorem loadnonce (n : Vector Byte 12) : Statement (.loadnonce n) := fun _ => by simp [encode, commandLength]

theorem block (ctr : Word) : Statement (.block ctr) := fun _ => rfl

theorem process (ctr : Word) (data : List Byte) : Statement (.process ctr data) := by
  intro h
  have hlen : data.length < 256 ^ 8 := by simpa [Instr.wellFormed] using h
  have htake : ((bytes32 ctr ++ leBytes 8 data.length ++ data).drop 4).take 8 = leBytes 8 data.length := by
    simp [bytes32, leBytes]
  simp only [encode, commandLength, htake, leNat_leBytes 8 _ hlen]
  simp [bytes32, leBytes_length]
  omega

theorem inject : Statement .inject := fun _ => (by decide : seqWord .inject ≠ seqWord .idle)

theorem qr0 (iter : Fin 10) : Statement (.qr0 iter) := fun _ => round_ne iter 0

theorem qr1 (iter : Fin 10) : Statement (.qr1 iter) := fun _ => round_ne iter 1

theorem qr2 (iter : Fin 10) : Statement (.qr2 iter) := fun _ => round_ne iter 2

theorem qr3 (iter : Fin 10) : Statement (.qr3 iter) := fun _ => round_ne iter 3

theorem qr4 (iter : Fin 10) : Statement (.qr4 iter) := fun _ => round_ne iter 4

theorem qr5 (iter : Fin 10) : Statement (.qr5 iter) := fun _ => round_ne iter 5

theorem qr6 (iter : Fin 10) : Statement (.qr6 iter) := fun _ => round_ne iter 6

theorem qr7 (iter : Fin 10) : Statement (.qr7 iter) := fun _ => round_ne iter 7

theorem feedfwd : Statement .feedfwd := fun _ => (by decide : seqWord .feedfwd ≠ seqWord .idle)

theorem emit : Statement .emit := fun _ => (by decide : seqWord .emit ≠ seqWord .idle)

theorem xorchunk : Statement .xorchunk := fun _ => (by decide : seqWord .xorchunk ≠ seqWord .idle)

end Sys2Proof.Laws.EncodedLength
end

