-- ==== Sys2Proof/Laws/Stream.lean ====
section
/-! SUPPORT. The stream function's laws: the chunk arithmetic, and one byte of the output after the XOR of one chunk. -/

namespace Sys2Proof.Machine

theorem counterOverflow_eq_true (start : Word) (len : Nat) :
    counterOverflow start len = true ↔ 1 ≤ chunkCount len ∧ start.toNat + (chunkCount len - 1) > 2 ^ 32 - 1 := by
  simp [counterOverflow]

theorem counterOverflow_eq_false (start : Word) (len : Nat) :
    counterOverflow start len = false ↔ (chunkCount len = 0 ∨ start.toNat + chunkCount len ≤ 2 ^ 32) := by
  simp only [counterOverflow, decide_eq_false_iff_not]
  omega

/-- An accepted request's chunk count fits the 33-bit register NCHUNKS (R20). -/
theorem chunkCount_fits {start : Word} {len : Nat} (h : counterOverflow start len = false) :
    chunkCount len ≤ 2 ^ 32 := by
  rw [counterOverflow_eq_false] at h
  omega

theorem chunkCounter_toNat {start : Word} {i : Nat} (h : start.toNat + i < 2 ^ 32) :
    (chunkCounter start i).toNat = start.toNat + i := by
  simp only [chunkCounter, h, if_true, BitVec.toNat_ofNat]
  omega

theorem chunkCounter_zero (start : Word) : chunkCounter start 0 = start := by
  have h : start.toNat + 0 < 2 ^ 32 := by have := start.isLt; omega
  apply BitVec.eq_of_toNat_eq
  rw [chunkCounter_toNat h]
  rfl

/-- Where chunk i lies (R52). -/
theorem lt_chunkLen (len i j : Nat) : j < chunkLen len i ↔ j < 64 ∧ 64 * i + j < len := by
  unfold chunkLen
  omega

@[simp] theorem xorByte_length (dbuf : List Byte) (ks : Vector Byte 64) (i : Nat) (obuf : List Byte) (j : Nat) :
    (xorByte dbuf ks i obuf j).length = obuf.length := by
  unfold xorByte memWrite
  split <;> simp

/-- One pass of the loop writes one byte (R161). -/
theorem xorByte_getElem? (dbuf : List Byte) (ks : Vector Byte 64) (i : Nat) (obuf : List Byte) (j k : Nat)
    (hj : j < 64) (hd : 64 * i + j < dbuf.length) (ho : obuf.length = dbuf.length) :
    (xorByte dbuf ks i obuf j)[k]? =
      if k = 64 * i + j then some (xor8 dbuf[64 * i + j] ks[j]) else obuf[k]? := by
  unfold xorByte memRead memWrite
  simp only [hd, hj, List.getElem?_eq_getElem, Vector.getElem?_eq_getElem, List.getElem?_set]
  by_cases h : k = 64 * i + j
  · subst h; simp [ho, hd]
  · simp [h, Ne.symm h]

theorem xorFold_length (dbuf : List Byte) (ks : Vector Byte 64) (i n : Nat) (obuf : List Byte) :
    ((List.range n).foldl (xorByte dbuf ks i) obuf).length = obuf.length := by
  induction n with
  | zero => simp
  | succ n ih => simp [List.range_succ, ih]

theorem xorFold_getElem? (dbuf : List Byte) (ks : Vector Byte 64) (i n : Nat) (obuf : List Byte) (k : Nat)
    (hn : n ≤ chunkLen dbuf.length i) (ho : obuf.length = dbuf.length) :
    ((List.range n).foldl (xorByte dbuf ks i) obuf)[k]? =
      if h : 64 * i ≤ k ∧ k < 64 * i + n then
        some (xor8 (dbuf[k]'(by unfold chunkLen at hn; omega)) (ks[k - 64 * i]'(by unfold chunkLen at hn; omega)))
      else obuf[k]? := by
  induction n with
  | zero => simp
  | succ n ih =>
    have hlt := (lt_chunkLen dbuf.length i n).mp hn
    have ho' : ((List.range n).foldl (xorByte dbuf ks i) obuf).length = dbuf.length := by
      rw [xorFold_length, ho]
    rw [List.range_succ, List.foldl_append, List.foldl_cons, List.foldl_nil,
      xorByte_getElem? _ _ _ _ _ _ hlt.1 hlt.2 ho', ih (by omega)]
    by_cases hk : k = 64 * i + n
    · subst hk; simp
    · by_cases hr : 64 * i ≤ k ∧ k < 64 * i + n
      · simp [hk, hr, show k < 64 * i + (n + 1) by omega]
      · simp only [hk, hr, dif_neg, not_false_eq_true, if_false]
        rw [dif_neg (by omega)]

@[simp] theorem xorChunk_length (dbuf : List Byte) (ks : Vector Byte 64) (i : Nat) (obuf : List Byte) :
    (xorChunk dbuf ks i obuf).length = obuf.length := xorFold_length _ _ _ _ _

/-- One byte of the output after XORCHUNK (R153): inside the chunk data XOR block byte, outside it as before. -/
theorem xorChunk_getElem? (dbuf : List Byte) (ks : Vector Byte 64) (i : Nat) (obuf : List Byte) (k : Nat)
    (ho : obuf.length = dbuf.length) :
    (xorChunk dbuf ks i obuf)[k]? =
      if h : 64 * i ≤ k ∧ k < 64 * i + 64 ∧ k < dbuf.length then
        some (xor8 (dbuf[k]'h.2.2) (ks[k - 64 * i]'(by omega)))
      else obuf[k]? := by
  unfold xorChunk
  rw [xorFold_getElem? _ _ _ _ _ _ (Nat.le_refl _) ho]
  by_cases h : 64 * i ≤ k ∧ k < 64 * i + 64 ∧ k < dbuf.length
  · rw [dif_pos h, dif_pos (by unfold chunkLen; omega)]
  · rw [dif_neg h, dif_neg (by unfold chunkLen; omega)]

@[simp] theorem streamChunk_length (key : Vector Word 8) (nonce : Vector Word 3) (start : Word)
    (data obuf : List Byte) (i : Nat) : (streamChunk key nonce start data obuf i).length = obuf.length :=
  xorChunk_length _ _ _ _

/-- The next chunk of an order comes last (R161). -/
theorem streamInOrder_append (key : Vector Word 8) (nonce : Vector Word 3) (start : Word) (data : List Byte)
    (order : List Nat) (i : Nat) :
    streamInOrder key nonce start data (order ++ [i]) =
      streamChunk key nonce start data (streamInOrder key nonce start data order) i := by
  simp [streamInOrder]

@[simp] theorem streamInOrder_length (key : Vector Word 8) (nonce : Vector Word 3) (start : Word) (data : List Byte)
    (order : List Nat) : (streamInOrder key nonce start data order).length = data.length := by
  induction order using List.reverseRecOn with
  | nil => simp [streamInOrder]
  | append_singleton order i ih => simp [streamInOrder_append, ih]

end Sys2Proof.Machine
end

