-- ==== Sys2Proof/Laws/Step.lean ====
section
/-! SUPPORT. What a step does, said once: by hardware reset, by the micro-operation SEQ selects, by the command
stream. -/

namespace Sys2Proof.Machine

theorem step_hwReset {s : State} (h : s.hwReset = true) : step s = .next (hardwareReset s) := by
  simp [step, fetch, h]

theorem step_micro {s : State} {i : Instr} (h : s.hwReset = false) (hm : microOf s.seq = some i) :
    step s = exec i s := by
  simp [step, fetch, h, hm]

theorem microOf_round (iter : Fin 10) (slot : Fin 8) : microOf (.round iter slot) = some (slotInstr iter slot) := rfl

/-- The eight quarter-round meanings are one operation at their slot. -/
theorem exec_slotInstr (iter : Fin 10) (slot : Fin 8) (s : State) :
    exec (slotInstr iter slot) s = .next (qrStep slot iter s) := by
  fin_cases slot <;> rfl

theorem step_inject {s : State} (h : s.hwReset = false) (hq : s.seq = .inject) : step s = .next (doInject s) := by
  rw [step_micro h (by rw [hq]; rfl)]
  rfl

theorem step_round {s : State} {iter : Fin 10} {slot : Fin 8} (h : s.hwReset = false)
    (hq : s.seq = .round iter slot) : step s = .next (qrStep slot iter s) := by
  rw [step_micro h (by rw [hq]; rfl), exec_slotInstr]

theorem step_feedfwd {s : State} (h : s.hwReset = false) (hq : s.seq = .feedfwd) :
    step s = .next (doFeedfwd s) := by
  rw [step_micro h (by rw [hq]; rfl)]
  rfl

theorem step_emit {s : State} (h : s.hwReset = false) (hq : s.seq = .emit) : step s = .next (doEmit s) := by
  rw [step_micro h (by rw [hq]; rfl)]
  rfl

theorem step_xorchunk {s : State} (h : s.hwReset = false) (hq : s.seq = .xorchunk) :
    step s = .next (doXorchunk s) := by
  rw [step_micro h (by rw [hq]; rfl)]
  rfl

theorem fetch_idle {s : State} (h : s.hwReset = false) (hq : s.seq = .idle) : fetch s = fetchCommand s := by
  simp [fetch, h, hq, microOf]

/-- In IDLE a step is what the command stream gives. -/
theorem step_idle {s : State} (h : s.hwReset = false) (hq : s.seq = .idle) :
    step s = match fetchCommand s with
      | .run i s' => exec i s'
      | .done s' => .next s' := by
  show (match fetch s with
    | .run i s' => exec i s'
    | .done s' => .next s') = _
  rw [fetch_idle h hq]

theorem step_command {s : State} {i : Instr} {rest : List Byte} (h : s.hwReset = false) (hq : s.seq = .idle)
    (hd : decodeBytes s.cmd = .command i rest) : step s = exec i { s with cmd := rest } := by
  rw [step_idle h hq]
  simp [fetchCommand, hd]

theorem step_illegal {s : State} {op : Byte} {rest : List Byte} (h : s.hwReset = false) (hq : s.seq = .idle)
    (hd : decodeBytes s.cmd = .illegal op rest) : step s = .next (badCommand { s with cmd := rest }) := by
  rw [step_idle h hq]
  simp [fetchCommand, hd]

theorem step_incomplete {s : State} (h : s.hwReset = false) (hq : s.seq = .idle)
    (hd : decodeBytes s.cmd = .incomplete) : step s = .next s := by
  rw [step_idle h hq]
  simp [fetchCommand, hd]

/-- What a step from a busy CORE can be: hardware reset or the micro-operation of its position. -/
theorem step_busy_cases {s t : State} (hb : s.seq ≠ .idle) (h : step s = .next t) :
    (s.hwReset = true ∧ t = hardwareReset s) ∨
      (s.hwReset = false ∧ s.seq = .inject ∧ t = doInject s) ∨
      (∃ iter slot, s.hwReset = false ∧ s.seq = .round iter slot ∧ t = qrStep slot iter s) ∨
      (s.hwReset = false ∧ s.seq = .feedfwd ∧ t = doFeedfwd s) ∨
      (s.hwReset = false ∧ s.seq = .emit ∧ t = doEmit s) ∨
      (s.hwReset = false ∧ s.seq = .xorchunk ∧ t = doXorchunk s) := by
  rcases Bool.eq_false_or_eq_true s.hwReset with hr | hr
  · rw [step_hwReset hr, Host.Outcome.next.injEq] at h
    exact .inl ⟨hr, h.symm⟩
  · cases hq : s.seq with
    | idle => exact absurd hq hb
    | inject =>
      rw [step_inject hr hq, Host.Outcome.next.injEq] at h
      exact .inr (.inl ⟨hr, rfl, h.symm⟩)
    | round iter slot =>
      rw [step_round hr hq, Host.Outcome.next.injEq] at h
      exact .inr (.inr (.inl ⟨iter, slot, hr, rfl, h.symm⟩))
    | feedfwd =>
      rw [step_feedfwd hr hq, Host.Outcome.next.injEq] at h
      exact .inr (.inr (.inr (.inl ⟨hr, rfl, h.symm⟩)))
    | emit =>
      rw [step_emit hr hq, Host.Outcome.next.injEq] at h
      exact .inr (.inr (.inr (.inr (.inl ⟨hr, rfl, h.symm⟩))))
    | xorchunk =>
      rw [step_xorchunk hr hq, Host.Outcome.next.injEq] at h
      exact .inr (.inr (.inr (.inr (.inr ⟨hr, rfl, h.symm⟩))))

/-- What a step from an idle CORE can be. -/
theorem step_idle_cases {s t : State} (hi : s.seq = .idle) (h : step s = .next t) :
    (s.hwReset = true ∧ t = hardwareReset s) ∨
      (s.hwReset = false ∧ ∃ i rest, decodeBytes s.cmd = .command i rest ∧ exec i { s with cmd := rest } = .next t) ∨
      (s.hwReset = false ∧ ∃ op rest, decodeBytes s.cmd = .illegal op rest ∧ t = badCommand { s with cmd := rest }) ∨
      (s.hwReset = false ∧ decodeBytes s.cmd = .incomplete ∧ t = s) := by
  rcases Bool.eq_false_or_eq_true s.hwReset with hr | hr
  · rw [step_hwReset hr, Host.Outcome.next.injEq] at h
    exact .inl ⟨hr, h.symm⟩
  · cases hd : decodeBytes s.cmd with
    | command i rest =>
      rw [step_command hr hi hd] at h
      exact .inr (.inl ⟨hr, i, rest, rfl, h⟩)
    | illegal op rest =>
      rw [step_illegal hr hi hd, Host.Outcome.next.injEq] at h
      exact .inr (.inr (.inl ⟨hr, op, rest, rfl, h.symm⟩))
    | incomplete =>
      rw [step_incomplete hr hi hd, Host.Outcome.next.injEq] at h
      exact .inr (.inr (.inr ⟨hr, rfl, h.symm⟩))

end Sys2Proof.Machine
end

