-- ==== Sys2Proof/Laws/Run.lean ====
section
/-! SUPPORT. Runs of several steps: runSteps is the host interface's run, and runs compose; what a
command-level step does. -/

namespace Sys2Proof

open Sys2Proof.Machine

theorem runSteps_zero (s : State) : runSteps 0 s = .next s := rfl

theorem runSteps_succ {s t : State} (n : Nat) (h : step s = .next t) : runSteps (n + 1) s = runSteps n t := by
  simp only [runSteps, h]

theorem runSteps_one {s t : State} (h : step s = .next t) : runSteps 1 s = .next t := runSteps_succ 0 h

/-- A run of a steps, then b steps. -/
theorem runSteps_add {a : Nat} {s t : State} (b : Nat) (h : runSteps a s = .next t) :
    runSteps (a + b) s = runSteps b t := by
  induction a generalizing s with
  | zero =>
    cases h
    rw [Nat.zero_add]
  | succ a ih =>
    rw [show a + 1 + b = a + b + 1 by omega]
    cases hs : step s with
    | next u =>
      rw [runSteps_succ _ hs] at h ⊢
      exact ih h
    | fault r => exact nomatch r
    | refused r =>
      simp only [runSteps, hs] at h
      exact nomatch h

/-- runSteps is the run of the host's interface. -/
theorem core_run_eq_runSteps (n : Nat) (s : State) : Host.Core.run Sys2Proof.core n s = runSteps n s := by
  induction n generalizing s with
  | zero => rfl
  | succ n ih =>
    cases hs : step s with
    | next t =>
      have h : Host.Core.run Sys2Proof.core (n + 1) s = Host.Core.run Sys2Proof.core n t := by
        have hs' : Sys2Proof.core.step s = .next t := hs
        simp only [Host.Core.run, hs']
      rw [h, ih, runSteps_succ n hs]
    | fault r => exact nomatch r
    | refused r =>
      have hs' : Sys2Proof.core.step s = .refused r := hs
      simp only [Host.Core.run, hs', runSteps, hs]
      rfl

/-! ## The command level -/

theorem commandStep_hwReset {s : State} (h : s.hwReset = true) : commandStep s = hardwareReset s := by
  simp [commandStep, h]

theorem commandStep_busy {s : State} (h : s.hwReset = false) (hq : s.seq ≠ .idle) : commandStep s = s := by
  simp [commandStep, h, hq]

theorem commandStep_command {s : State} {i : Instr} {rest : List Byte} (h : s.hwReset = false) (hq : s.seq = .idle)
    (hd : decodeBytes s.cmd = .command i rest) : commandStep s = commandLevel i { s with cmd := rest } := by
  simp [commandStep, fetchCommand, h, hq, hd]

theorem commandStep_illegal {s : State} {op : Byte} {rest : List Byte} (h : s.hwReset = false) (hq : s.seq = .idle)
    (hd : decodeBytes s.cmd = .illegal op rest) : commandStep s = badCommand { s with cmd := rest } := by
  simp [commandStep, fetchCommand, h, hq, hd]

theorem commandStep_incomplete {s : State} (h : s.hwReset = false) (hq : s.seq = .idle)
    (hd : decodeBytes s.cmd = .incomplete) : commandStep s = s := by
  simp [commandStep, fetchCommand, h, hq, hd]

end Sys2Proof
end

