-- ==== Sys2Proof/Machine/Pseudo.lean ====
section
/-! DEFINITION. The pseudo-operations and their expansions (spec/30_encoding.md R83). None adds behaviour. -/

namespace Sys2Proof.Machine

/-- R83's five pseudo-operations. -/
inductive Pseudo where
  | encrypt (ctr : Word) (data : List Byte)
  | decrypt (ctr : Word) (data : List Byte)
  | keystream (ctr : Word) (n : Nat)
  | loadbase (key : Vector Byte 32) (nonce : Vector Byte 12)
  | clear
  deriving DecidableEq, Repr

/-- The expansion column of R83. -/
def expandPseudo : Pseudo → List Instr
  | .encrypt ctr data => [.process ctr data]
  | .decrypt ctr data => [.process ctr data]
  | .keystream ctr n => [.process ctr (List.replicate n 0)]
  | .loadbase key nonce => [.loadkey key, .loadnonce nonce]
  | .clear => [.reset]

end Sys2Proof.Machine
end

