-- ==== Sys2Proof/Machine/Text.lean ====
section
/-! DEFINITION. The assembler text of a command (spec/30_encoding.md R82): mnemonic in capitals, byte strings as hex:
and two digits a byte, integers as 0x and eight digits. A micro-operation has no operands in text. -/

namespace Sys2Proof.Machine

/-- One hexadecimal digit. -/
def hexDigit (n : Nat) : Char := if n < 10 then Char.ofNat (48 + n) else Char.ofNat (87 + n)

/-- The `count` hexadecimal digits of n, most significant first (R9). -/
def hexDigits : (count n : Nat) → List Char
  | 0, _ => []
  | count + 1, n => hexDigits count (n / 16) ++ [hexDigit (n % 16)]

/-- A byte string operand: hex: and the bytes in index order, with spaces between (R82). -/
def hexText (bs : List Byte) : String :=
  "hex:" ++ String.intercalate " " (bs.map fun b => String.ofList (hexDigits 2 b.toNat))

/-- An integer operand. -/
def wordText (v : Word) : String := "0x" ++ String.ofList (hexDigits 8 v.toNat)

/-- One line of text (R82). -/
def instrText : Instr → String
  | .reset => "RESET"
  | .status => "STATUS"
  | .loadkey k => "LOADKEY " ++ hexText k.toList
  | .loadnonce n => "LOADNONCE " ++ hexText n.toList
  | .block ctr => "BLOCK " ++ wordText ctr
  | .process ctr data => "PROCESS " ++ wordText ctr ++ ", " ++ hexText data
  | .inject => "INJECT"
  | .qr0 _ => "QR0"
  | .qr1 _ => "QR1"
  | .qr2 _ => "QR2"
  | .qr3 _ => "QR3"
  | .qr4 _ => "QR4"
  | .qr5 _ => "QR5"
  | .qr6 _ => "QR6"
  | .qr7 _ => "QR7"
  | .feedfwd => "FEEDFWD"
  | .emit => "EMIT"
  | .xorchunk => "XORCHUNK"

end Sys2Proof.Machine
end

