-- ==== Sys2Proof/Tests/Slice0.lean ====
section
/-! SUPPORT. The model's own tests: the vectors of spec/95_test_vectors.md (V and P numbers in the docstrings), and for
every statement with hypotheses a witness that meets them. No expected value comes from the model. -/

namespace Sys2Proof.Tests

-- One theorem at a time: each thread of the parallel elaboration reserves memory of its own.
set_option Elab.async false

open Sys2Proof.Machine

/-- The outcome is a next state with property p. -/
def nextSat (o : Host.Outcome State Fault Refusal) (p : State → Bool) : Bool :=
  match o with
  | .next t => p t
  | .fault _ => false
  | .refused _ => false

/-- The key bytes 00 01 .. 1f of V20. -/
def keyBytes : Vector Byte 32 := Vector.ofFn fun i => BitVec.ofNat 8 i.val

/-- The nonce bytes of V20. -/
def nonceBytes : Vector Byte 12 := #v[0x00, 0x00, 0x00, 0x09, 0x00, 0x00, 0x00, 0x4a, 0x00, 0x00, 0x00, 0x00]

/-- The reset state with the zero key and nonce loaded (start of P6). -/
def zeroLoaded : State := { State.reset with keyv := true, noncev := true }

/-- The end state of P1, key and nonce of V20 loaded. -/
def loadedV20 : State :=
  { State.reset with
    key := #v[0x03020100, 0x07060504, 0x0b0a0908, 0x0f0e0d0c, 0x13121110, 0x17161514, 0x1b1a1918, 0x1f1e1d1c]
    nonce := #v[0x09000000, 0x4a000000, 0x00000000]
    keyv := true
    noncev := true }

/-- FAULT = 1 after a fault entry (V56). -/
def faulted1 : State := { State.reset with fault := 1 }

/-- BLOCK 1 of P5 accepted, before its step 0. -/
def blockStarted : State := { loadedV20 with start := 1, seq := .inject }

/-- P5 before step n of the first eight quarter-rounds: the matrix as given, SEQ at slot n. -/
def atSlot (m : StateMatrix) (n : Fin 8) : State := { blockStarted with x := m, j := 1, seq := .round 0 n }

/-- V20, INIT. -/
def initV20 : StateMatrix :=
  #v[0x61707865, 0x3320646e, 0x79622d32, 0x6b206574,
    0x03020100, 0x07060504, 0x0b0a0908, 0x0f0e0d0c,
    0x13121110, 0x17161514, 0x1b1a1918, 0x1f1e1d1c,
    0x00000001, 0x09000000, 0x4a000000, 0x00000000]

/-- V20, after the column round of iteration 0. -/
def colV20 : StateMatrix :=
  #v[0xabbaa25c, 0x1efa51ea, 0x7354fbdf, 0x83d2dc69,
    0x3a465196, 0x1c7e64f6, 0xb12fb628, 0xf05b6976,
    0x6b3ca454, 0x08eb14b1, 0xbf8a9ac9, 0xe444df3b,
    0xdec62ed2, 0x8862cc77, 0x6e35b345, 0x52a647f1]

/-- V20, after iteration 0. -/
def iter0V20 : StateMatrix :=
  #v[0xcd52e917, 0x85ab03b4, 0xb3457395, 0xf96de7dd,
    0xc4b7cd22, 0x5c2e187a, 0xc95eb461, 0x316c801a,
    0x7bf7d740, 0x7eddd644, 0xf1a1bdf5, 0x761246ca,
    0x6b0d58a3, 0x6798471a, 0xd737f167, 0xf173888d]

/-- V20, after iteration 1. -/
def iter1V20 : StateMatrix :=
  #v[0xcf1a7584, 0x048927ec, 0x54051fda, 0xc244ff28,
    0x901d2f40, 0x7974b81c, 0x378dcfb4, 0xcd47fd0e,
    0x2dafb216, 0x27c89cd6, 0xcd3c9aa0, 0x79fc89c7,
    0x10aef18d, 0x16218765, 0x68f76705, 0x04d6ee22]

/-- V20, PERMUTE(INIT). -/
def permV20 : StateMatrix :=
  #v[0x837778ab, 0xe238d763, 0xa67ae21e, 0x5950bb2f,
    0xc4f2d0c7, 0xfc62bb2f, 0x8fa018fc, 0x3f5ec7b7,
    0x335271c2, 0xf29489f3, 0xeabda8fc, 0x82e46ebd,
    0xd19c12b4, 0xb04e16de, 0x9e83d0cb, 0x4e3c50a2]

/-- V20, after FEEDFWD. -/
def sumV20 : StateMatrix :=
  #v[0xe4e7f110, 0x15593bd1, 0x1fdd0f50, 0xc47120a3,
    0xc7f4d1c7, 0x0368c033, 0x9aaa2204, 0x4e6cd4c3,
    0x466482d2, 0x09aa9f07, 0x05d7c214, 0xa2028bd9,
    0xd19c12b5, 0xb94e16de, 0xe883d0cb, 0x4e3c50a2]

/-- V20, the keystream block. -/
def block20 : List Byte :=
  [0x10, 0xf1, 0xe7, 0xe4, 0xd1, 0x3b, 0x59, 0x15, 0x50, 0x0f, 0xdd, 0x1f, 0xa3, 0x20, 0x71, 0xc4] ++
  [0xc7, 0xd1, 0xf4, 0xc7, 0x33, 0xc0, 0x68, 0x03, 0x04, 0x22, 0xaa, 0x9a, 0xc3, 0xd4, 0x6c, 0x4e] ++
  [0xd2, 0x82, 0x64, 0x46, 0x07, 0x9f, 0xaa, 0x09, 0x14, 0xc2, 0xd7, 0x05, 0xd9, 0x8b, 0x02, 0xa2] ++
  [0xb5, 0x12, 0x9c, 0xd1, 0xde, 0x16, 0x4e, 0xb9, 0xcb, 0xd0, 0x83, 0xe8, 0xa2, 0x50, 0x3c, 0x4e]

/-- V21, zero key and nonce, counter 0. -/
def block21 : List Byte :=
  [0x76, 0xb8, 0xe0, 0xad, 0xa0, 0xf1, 0x3d, 0x90, 0x40, 0x5d, 0x6a, 0xe5, 0x53, 0x86, 0xbd, 0x28] ++
  [0xbd, 0xd2, 0x19, 0xb8, 0xa0, 0x8d, 0xed, 0x1a, 0xa8, 0x36, 0xef, 0xcc, 0x8b, 0x77, 0x0d, 0xc7] ++
  [0xda, 0x41, 0x59, 0x7c, 0x51, 0x57, 0x48, 0x8d, 0x77, 0x24, 0xe0, 0x3f, 0xb8, 0xd8, 0x4a, 0x37] ++
  [0x6a, 0x43, 0xb8, 0xf4, 0x15, 0x18, 0xa1, 0x1c, 0xc3, 0x87, 0xb6, 0x69, 0xb2, 0xee, 0x65, 0x86]

/-- V22, zero key and nonce, counter 1. -/
def block22 : List Byte :=
  [0x9f, 0x07, 0xe7, 0xbe, 0x55, 0x51, 0x38, 0x7a, 0x98, 0xba, 0x97, 0x7c, 0x73, 0x2d, 0x08, 0x0d] ++
  [0xcb, 0x0f, 0x29, 0xa0, 0x48, 0xe3, 0x65, 0x69, 0x12, 0xc6, 0x53, 0x3e, 0x32, 0xee, 0x7a, 0xed] ++
  [0x29, 0xb7, 0x21, 0x76, 0x9c, 0xe6, 0x4e, 0x43, 0xd5, 0x71, 0x33, 0xb0, 0x74, 0xd8, 0x39, 0xd5] ++
  [0x31, 0xed, 0x1f, 0x28, 0x51, 0x0a, 0xfb, 0x45, 0xac, 0xe1, 0x0a, 0x1f, 0x4b, 0x79, 0x4d, 0x6f]

/-- V25, the second block, counter 0xffffffff. -/
def block25 : List Byte :=
  [0xac, 0xe4, 0xcd, 0x09, 0xe2, 0x94, 0xd1, 0x91, 0x2d, 0x4a, 0xd2, 0x05, 0xd0, 0x6f, 0x95, 0xd9] ++
  [0xc2, 0xf2, 0xbf, 0xcf, 0x45, 0x3e, 0x87, 0x53, 0xf1, 0x28, 0x76, 0x5b, 0x62, 0x21, 0x5f, 0x4d] ++
  [0x92, 0xc7, 0x4f, 0x2f, 0x62, 0x6c, 0x6a, 0x64, 0x0c, 0x0b, 0x12, 0x84, 0xd8, 0x39, 0xec, 0x81] ++
  [0xf1, 0x69, 0x62, 0x81, 0xda, 0xfc, 0x3e, 0x68, 0x45, 0x93, 0x93, 0x70, 0x23, 0xb5, 0x8b, 0x1d]

/-- V26, all ones. -/
def block26 : List Byte :=
  [0xd7, 0x2b, 0x21, 0xcf, 0xa4, 0xb6, 0xb0, 0xc4, 0x1d, 0x61, 0xf6, 0x2b, 0x8a, 0x11, 0x15, 0x9c] ++
  [0x6a, 0x4f, 0x63, 0xbc, 0x56, 0xc2, 0x03, 0x57, 0x96, 0xc7, 0xad, 0x37, 0x81, 0x11, 0x21, 0xbb] ++
  [0xec, 0x56, 0xd5, 0x4a, 0x53, 0x0f, 0x3a, 0x93, 0x3d, 0xd2, 0x8a, 0x50, 0xfe, 0xb2, 0x3b, 0xfa] ++
  [0xf6, 0x4f, 0x40, 0x5b, 0xe9, 0x85, 0xf3, 0x71, 0x8b, 0xdf, 0x46, 0x83, 0xe9, 0x6b, 0xe7, 0x49]

/-- V28, nonce 00 .. 00 01, counter 0. -/
def block28 : List Byte :=
  [0xde, 0x9c, 0xba, 0x7b, 0xf3, 0xd6, 0x9e, 0xf5, 0xe7, 0x86, 0xdc, 0x63, 0x97, 0x3f, 0x65, 0x3a] ++
  [0x0b, 0x49, 0xe0, 0x15, 0xad, 0xbf, 0xf7, 0x13, 0x4f, 0xcb, 0x7d, 0xf1, 0x37, 0x82, 0x10, 0x31] ++
  [0xe8, 0x5a, 0x05, 0x02, 0x78, 0xa7, 0x08, 0x45, 0x27, 0x21, 0x4f, 0x73, 0xef, 0xc7, 0xfa, 0x5b] ++
  [0x52, 0x77, 0x06, 0x2e, 0xb7, 0xa0, 0x43, 0x3e, 0x44, 0x5f, 0x41, 0xe3, 0x1a, 0xfa, 0xb7, 0x57]

/-- V29, the zero matrix with counter 1. -/
def block29 : List Byte :=
  [0x52, 0x3b, 0x05, 0xd3, 0xa0, 0x28, 0x87, 0xf6, 0x7e, 0xef, 0x8b, 0xec, 0x3f, 0x72, 0x3d, 0xc2] ++
  [0xc1, 0x77, 0x32, 0x00, 0xd7, 0x79, 0xfa, 0x8d, 0x1f, 0x5f, 0x2a, 0xfb, 0xd8, 0x4e, 0xf5, 0x29] ++
  [0x39, 0x88, 0xab, 0xdc, 0x02, 0x64, 0x92, 0x78, 0x7d, 0x27, 0xbd, 0x79, 0xce, 0xec, 0x5e, 0x4f] ++
  [0xda, 0x15, 0xf4, 0xfe, 0xc0, 0x10, 0x24, 0x7d, 0xa9, 0x6d, 0x99, 0x2d, 0x95, 0x5a, 0x54, 0xe9]

/-- V32, the output of the 70-byte request. -/
def out32 : List Byte :=
  [0x76, 0xb9, 0xe2, 0xae, 0xa4, 0xf4, 0x3b, 0x97, 0x48, 0x54, 0x60, 0xee, 0x5f, 0x8b, 0xb3, 0x27] ++
  [0xad, 0xc3, 0x0b, 0xab, 0xb4, 0x98, 0xfb, 0x0d, 0xb0, 0x2f, 0xf5, 0xd7, 0x97, 0x6a, 0x13, 0xd8] ++
  [0xfa, 0x60, 0x7b, 0x5f, 0x75, 0x72, 0x6e, 0xaa, 0x5f, 0x0d, 0xca, 0x14, 0x94, 0xf5, 0x64, 0x18] ++
  [0x5a, 0x72, 0x8a, 0xc7, 0x21, 0x2d, 0x97, 0x2b, 0xfb, 0xbe, 0x8c, 0x52, 0x8e, 0xd3, 0x5b, 0xb9] ++
  [0xdf, 0x46, 0xa5, 0xfd, 0x11, 0x14]

/-- V32, the data bytes 00 01 .. 45. -/
def data32 : List Byte := (List.range 70).map (BitVec.ofNat 8)

/-! ## Well-formedness -/

/-- R75: LEN must fit 64 bits. The length stands in a variable so that nothing builds the list. -/
theorem test_wellFormed_length (n : Nat) (h : n = 2 ^ 64) :
    (Instr.process 0 (List.replicate n 0)).wellFormed = false := by
  simp only [Instr.wellFormed, List.length_replicate, h, Nat.lt_irrefl, decide_false]

/-- The one ill-formed shape of instruction is refused. -/
theorem test_wellFormed_refuses : (Instr.process 0 (List.replicate (2 ^ 64) 0)).wellFormed = false :=
  test_wellFormed_length _ rfl

theorem test_wellFormed_accepts : (Instr.process 0 [0xff]).wellFormed = true := by decide

/-! ## Word operations -/

/-- V1 to V7. -/
theorem test_add32_xor32 :
    add32 0xffffffff 0x00000001 = 0 ∧ add32 0x80000000 0x80000000 = 0 ∧
      add32 0xffffffff 0xffffffff = 0xfffffffe ∧ add32 0x11111111 0x01020304 = 0x12131415 ∧
      add32 0x77777777 0x01234567 = 0x789abcde ∧ xor32 0x01234567 0x12131415 = 0x13305172 ∧
      xor32 0x77777777 0x01234567 = 0x76543210 := by decide

/-- V8, V9a, V9c. -/
theorem test_rotl32 :
    rotl32 0x12345678 16 = 0x56781234 ∧ rotl32 0x12345678 12 = 0x45678123 ∧ rotl32 0x12345678 8 = 0x34567812 ∧
      rotl32 0x12345678 7 = 0x1a2b3c09 ∧ rotl32 0x80000000 7 = 0x00000040 ∧ rotl32 0xdeadbeef 16 = 0xbeefdead ∧
      rotl32 0xdeadbeef 12 = 0xdbeefdea ∧ rotl32 0xdeadbeef 7 = 0x56df77ef := by decide

/-- R23: the constants are the ASCII bytes of the string, four at a time, little-endian. -/
theorem test_constWord_ascii :
    bytes32 (constWord 0) ++ bytes32 (constWord 1) ++ bytes32 (constWord 2) ++ bytes32 (constWord 3) =
      "expand 32-byte k".toList.map fun c => BitVec.ofNat 8 c.toNat := by decide +kernel

/-! ## Quarter-round and block function -/

/-- V10, V13. -/
theorem test_qr :
    qr 0x11111111 0x01020304 0x9b8d6f43 0x01234567 = (0xea2a92f4, 0xcb1cf8ce, 0x4581472e, 0x5881c4bb) ∧
      qr 0xffffffff 0xffffffff 0xffffffff 0xffffffff = (0xf0000ffd, 0x88790878, 0x0110fdef, 0x010ffdf0) := by
  decide +kernel

/-- V14 to V17: the four positions differ. -/
theorem test_qr_positions :
    qr 1 0 0 0 = (0x10000001, 0x80808808, 0x01010110, 0x01000110) ∧
      qr 0 1 0 0 = (0x10001001, 0x88888808, 0x01110110, 0x01100110) ∧
      qr 0 0 1 0 = (0x00001000, 0x08080080, 0x00100001, 0x00100000) ∧
      qr 0 0 0 1 = (0x10000000, 0x80800808, 0x01010010, 0x01000010) := by decide +kernel

/-- R111 on V10. -/
theorem test_qrInverse :
    qrInverse 0xea2a92f4 0xcb1cf8ce 0x4581472e 0x5881c4bb = (0x11111111, 0x01020304, 0x9b8d6f43, 0x01234567) := by
  decide +kernel

/-- V11. -/
theorem test_qrx_slot6 :
    qrSlot 6
        #v[0x879531e0, 0xc5ecf37d, 0x516461b1, 0xc9a62f8a, 0x44c20ef3, 0x3390af7f, 0xd9fc690b, 0x2a5f714c,
          0x53372767, 0xb00a5631, 0x974c541a, 0x359e9963, 0x5c971061, 0x3d631689, 0x2098d9d6, 0x91dbd320] =
      #v[0x879531e0, 0xc5ecf37d, 0xbdb886dc, 0xc9a62f8a, 0x44c20ef3, 0x3390af7f, 0xd9fc690b, 0xcfacafd2,
        0xe46bea80, 0xb00a5631, 0x974c541a, 0x359e9963, 0x5c971061, 0xccc07c79, 0x2098d9d6, 0x91dbd320] := by
  decide +kernel

/-- R81: the slot formula gives the literals of R113. -/
theorem test_slotGroup_formula :
    ∀ n : Fin 8,
      (slotGroup n).ia.val = n.val % 4 ∧
        (slotGroup n).ib.val = 4 + (n.val + n.val / 4) % 4 ∧
        (slotGroup n).ic.val = 8 + (n.val + 2 * (n.val / 4)) % 4 ∧
        (slotGroup n).id.val = 12 + (n.val + 3 * (n.val / 4)) % 4 := by decide

/-- V20: the matrix at each stage. -/
theorem test_block_stages :
    initMatrix loadedV20.key loadedV20.nonce 1 = initV20 ∧ colRound initV20 = colV20 ∧
      diagRound colV20 = iter0V20 ∧ doubleRound iter0V20 = iter1V20 ∧ permute initV20 = permV20 ∧
      feedfwdFn permV20 initV20 = sumV20 ∧ (serialize sumV20).toList = block20 := by decide +kernel

/-- V21, V22 (C2: byte 48 is 31), V25, V26, V28. -/
theorem test_ksBlock :
    (ksBlock zeroLoaded.key zeroLoaded.nonce 0).toList = block21 ∧
      (ksBlock zeroLoaded.key zeroLoaded.nonce 1).toList = block22 ∧
      (ksBlock zeroLoaded.key zeroLoaded.nonce 0xffffffff).toList = block25 ∧
      (ksBlock (Vector.replicate 8 0xffffffff) (Vector.replicate 3 0xffffffff) 0xffffffff).toList = block26 ∧
      (ksBlock zeroLoaded.key #v[0, 0, 0x01000000] 0).toList = block28 := by decide +kernel

/-- V29. -/
theorem test_blockFn_zero :
    blockFn (Vector.replicate 16 0) 0 = Vector.replicate 64 0 ∧
      (blockFn (Vector.replicate 16 0) 1).toList = block29 := by decide +kernel

/-! ## Stream function -/

/-- V32: two chunks, the second of 6 bytes. -/
theorem test_streamFn_70 : streamFn zeroLoaded.key zeroLoaded.nonce 0 data32 = some out32 := by decide +kernel

/-- V33 with LEN = 1, V34, V36. -/
theorem test_streamFn_edges :
    streamFn zeroLoaded.key zeroLoaded.nonce 0 [0xff] = some [0x89] ∧
      streamFn zeroLoaded.key zeroLoaded.nonce 0xffffffff [] = some [] ∧
      streamFn zeroLoaded.key zeroLoaded.nonce 0xffffffff (List.replicate 65 0) = none := by decide +kernel

/-- V35 to V38d. -/
theorem test_counterOverflow :
    [counterOverflow 0xffffffff 0, counterOverflow 0xffffffff 1, counterOverflow 0xffffffff 64,
        counterOverflow 0xffffffff 65, counterOverflow 0xfffffffe 128, counterOverflow 0xfffffffe 129,
        counterOverflow 0 (2 ^ 38), counterOverflow 0 (2 ^ 38 + 1), counterOverflow 1 (2 ^ 38 - 63),
        counterOverflow 1 (2 ^ 38 - 64), counterOverflow 0 (2 ^ 64 - 1)] =
      [false, false, false, true, false, true, false, true, true, false, true] := by decide +kernel

/-! ## Decoding, one word for every constructor, written out from R75, R76 and R80 -/

/-- V40, V41. -/
theorem test_decode_reset_status :
    decodeBytes [0x01] = .command .reset [] ∧ decodeBytes [0x02] = .command .status [] := by decide

/-- V42. -/
theorem test_decode_loadkey :
    decodeBytes
        ([0x10, 0x00, 0x01, 0x02, 0x03, 0x04, 0x05, 0x06, 0x07, 0x08, 0x09, 0x0a, 0x0b, 0x0c, 0x0d, 0x0e, 0x0f] ++
          [0x10, 0x11, 0x12, 0x13, 0x14, 0x15, 0x16, 0x17, 0x18, 0x19, 0x1a, 0x1b, 0x1c, 0x1d, 0x1e, 0x1f]) =
      .command (.loadkey keyBytes) [] := by decide

/-- V43, with a byte of the next command behind it. -/
theorem test_decode_loadnonce :
    decodeBytes [0x11, 0x00, 0x00, 0x00, 0x09, 0x00, 0x00, 0x00, 0x4a, 0x00, 0x00, 0x00, 0x00, 0x02] =
      .command (.loadnonce nonceBytes) [0x02] := by decide

/-- V44, V44a, V44b: the counter is little-endian. -/
theorem test_decode_block :
    decodeBytes [0x20, 0x01, 0x00, 0x00, 0x00] = .command (.block 1) [] ∧
      decodeBytes [0x20, 0xff, 0xff, 0xff, 0xff] = .command (.block 0xffffffff) [] ∧
      decodeBytes [0x20, 0x04, 0x03, 0x02, 0x01] = .command (.block 0x01020304) [] := by decide

/-- V45, V45a, V45b. -/
theorem test_decode_process :
    decodeBytes [0x21, 0, 0, 0, 0, 0x01, 0, 0, 0, 0, 0, 0, 0, 0xff] = .command (.process 0 [0xff]) [] ∧
      decodeBytes [0x21, 0x01, 0, 0, 0, 0, 0, 0, 0, 0, 0, 0, 0] = .command (.process 1 []) [] ∧
      decodeBytes [0x21, 0, 0, 0, 0, 0x08, 0, 0, 0, 0, 0, 0, 0, 0, 0, 0, 0, 0, 0, 0, 0] =
        .command (.process 0 (List.replicate 8 0)) [] := by decide

/-- V45c: the header of a request of 2^38 + 1 bytes. -/
theorem test_decode_process_header :
    commandLength [0x21, 0, 0, 0, 0, 0x01, 0, 0, 0, 0x40, 0, 0, 0] = 13 + (2 ^ 38 + 1) := by decide

/-- V46, V47. -/
theorem test_decode_illegal_incomplete :
    decodeBytes [0x00] = .illegal 0x00 [] ∧ decodeBytes [0x03, 0x01] = .illegal 0x03 [0x01] ∧
      decodeBytes [0x12] = .illegal 0x12 [] ∧ decodeBytes [0x22] = .illegal 0x22 [] ∧
      decodeBytes [0xff] = .illegal 0xff [] ∧ decodeBytes [0x20, 0x01, 0x00] = .incomplete := by decide

/-- R80, 95_test_vectors.md section 2.5: the SEQ values. -/
theorem test_decode_seq :
    decodeSeq 0x000 = .idle ∧ decodeSeq 0x080 = .micro .inject ∧ decodeSeq 0x100 = .micro (.qr0 0) ∧
      decodeSeq 0x101 = .micro (.qr1 0) ∧ decodeSeq 0x10a = .micro (.qr2 1) ∧ decodeSeq 0x103 = .micro (.qr3 0) ∧
      decodeSeq 0x124 = .micro (.qr4 4) ∧ decodeSeq 0x105 = .micro (.qr5 0) ∧ decodeSeq 0x146 = .micro (.qr6 8) ∧
      decodeSeq 0x14f = .micro (.qr7 9) ∧ decodeSeq 0x180 = .micro .feedfwd ∧ decodeSeq 0x200 = .micro .emit ∧
      decodeSeq 0x280 = .micro .xorchunk := by decide

/-- U5: values no run reaches: ITER = 10, SLOT outside ROUND, PHASE = 6, PHASE = 7. -/
theorem test_decode_seq_unreachable :
    decodeSeq 0x150 = .unreachable 0x150 ∧ decodeSeq 0x081 = .unreachable 0x081 ∧
      decodeSeq 0x300 = .unreachable 0x300 ∧ decodeSeq 0x380 = .unreachable 0x380 := by decide

/-- The match words of spec/opcode_table.json read as table words. -/
theorem test_decodeTableWord :
    [decodeTableWord 8 0x01, decodeTableWord 8 0x02, decodeTableWord 8 0x20, decodeTableWord 8 0x21,
        decodeTableWord 16 0x080, decodeTableWord 16 0x107, decodeTableWord 16 0x280, decodeTableWord 8 0x77] =
      [some .reset, some .status, some (.block 0), some (.process 0 []), some .inject, some (.qr7 0),
        some .xorchunk, none] := by decide

/-- withFetchWord places the instruction that the next step runs. -/
theorem test_withFetchWord :
    nextSat (step (State.reset.withFetchWord 8 0x10)) (fun t => t.keyv && t.cmd == [] && t.rsp == [0x00]) = true ∧
      nextSat (step (State.reset.withFetchWord 16 0x107)) (fun t => t.seq == .round 1 0) = true := by decide +kernel

/-! ## Commands, one step each -/

/-- V58. -/
theorem test_reset :
    nextSat (step { faulted1 with cmd := [0x01] }) (fun t => t == { State.reset with rsp := [0x00] }) = true := by
  decide +kernel

/-- V57; P1: the status byte of a loaded CORE. -/
theorem test_status :
    nextSat (step { faulted1 with cmd := [0x02] }) (fun t => t == { faulted1 with rsp := [0x00, 0x10] }) = true ∧
      nextSat (step { loadedV20 with cmd := [0x02] }) (fun t => t.rsp == [0x00, 0x03]) = true := by decide +kernel

/-- P1: KEY after LOADKEY 00 01 .. 1f. -/
theorem test_loadkey :
    nextSat (exec (.loadkey keyBytes) State.reset)
      (fun t => t.key == loadedV20.key && t.keyv && !t.noncev && t.rsp == [0x00]) = true := by decide +kernel

/-- P1: NONCE after LOADNONCE; a reload keeps the key (P6). -/
theorem test_loadnonce :
    nextSat (exec (.loadnonce nonceBytes) { State.reset with keyv := true })
      (fun t => t.nonce == loadedV20.nonce && t.keyv && t.noncev && t.rsp == [0x00]) = true := by decide +kernel

/-- P5: BLOCK 1 accepted: MODE 0, START 1, CI 0, SEQ 080. -/
theorem test_block :
    nextSat (step { loadedV20 with cmd := [0x20, 0x01, 0x00, 0x00, 0x00] })
      (fun t => t.mode == .block && t.start == 1 && t.ci == 0 && seqWord t.seq == 0x080 && t.rsp == []) = true := by
  decide +kernel

/-- V50, V51. -/
theorem test_block_notLoaded :
    nextSat (exec (.block 0) State.reset) (fun t => t.fault == 2 && t.rsp == [0x82]) = true ∧
      nextSat (exec (.block 0) { loadedV20 with noncev := false, nonce := State.reset.nonce })
        (fun t => t == { State.reset with fault := 2, rsp := [0x82] }) = true := by decide +kernel

/-- P5: the 70-byte PROCESS accepted: MODE 1, START 0, NCHUNKS 2, CI 0, SEQ 080; V34: an empty request answers. -/
theorem test_process :
    nextSat (exec (.process 0 data32) zeroLoaded)
        (fun t => t.mode == .process && t.nchunks == 2 && t.ci == 0 && seqWord t.seq == 0x080 && t.rsp == []) = true ∧
      nextSat (exec (.process 0xffffffff []) zeroLoaded)
        (fun t => t == { zeroLoaded with rsp := [0x00] }) = true := by decide +kernel

/-- V52, V53, V54: NotLoaded precedes CounterOverflow. -/
theorem test_process_faults :
    nextSat (exec (.process 0xffffffff (List.replicate 65 0)) State.reset) (fun t => t.rsp == [0x82]) = true ∧
      nextSat (exec (.process 0 []) State.reset) (fun t => t.rsp == [0x82]) = true ∧
      nextSat (exec (.process 0xffffffff (List.replicate 65 0)) loadedV20)
        (fun t => t == { State.reset with fault := 1, rsp := [0x81] }) = true := by decide +kernel

/-- V55, V56: BadCommand, and Faulted before it. -/
theorem test_badCommand :
    nextSat (step { loadedV20 with cmd := [0x77] })
        (fun t => t == { State.reset with fault := 3, rsp := [0x83] }) = true ∧
      nextSat (step { faulted1 with cmd := [0x77] }) (fun t => t == { faulted1 with rsp := [0x8f] }) = true := by
  decide +kernel

/-! ## Micro-operations, one step each (the trace of P5) -/

theorem test_inject :
    nextSat (step blockStarted) (fun t => t.x == initV20 && t.j == 1 && seqWord t.seq == 0x100) = true := by
  decide +kernel

theorem test_qr0 :
    nextSat (step (atSlot initV20 0))
      (fun t => (t.x[0], t.x[4], t.x[8], t.x[12]) == (0xabbaa25c, 0x3a465196, 0x6b3ca454, 0xdec62ed2) &&
        seqWord t.seq == 0x101) = true := by decide +kernel

theorem test_qr1 :
    nextSat (step (atSlot initV20 1))
      (fun t => (t.x[1], t.x[5], t.x[9], t.x[13]) == (0x1efa51ea, 0x1c7e64f6, 0x08eb14b1, 0x8862cc77) &&
        seqWord t.seq == 0x102) = true := by decide +kernel

theorem test_qr2 :
    nextSat (step (atSlot initV20 2))
      (fun t => (t.x[2], t.x[6], t.x[10], t.x[14]) == (0x7354fbdf, 0xb12fb628, 0xbf8a9ac9, 0x6e35b345) &&
        seqWord t.seq == 0x103) = true := by decide +kernel

theorem test_qr3 :
    nextSat (step (atSlot initV20 3))
      (fun t => (t.x[3], t.x[7], t.x[11], t.x[15]) == (0x83d2dc69, 0xf05b6976, 0xe444df3b, 0x52a647f1) &&
        seqWord t.seq == 0x104) = true := by decide +kernel

theorem test_qr4 :
    nextSat (step (atSlot colV20 4))
      (fun t => (t.x[0], t.x[5], t.x[10], t.x[15]) == (0xcd52e917, 0x5c2e187a, 0xf1a1bdf5, 0xf173888d) &&
        seqWord t.seq == 0x105) = true := by decide +kernel

theorem test_qr5 :
    nextSat (step (atSlot colV20 5))
      (fun t => (t.x[1], t.x[6], t.x[11], t.x[12]) == (0x85ab03b4, 0xc95eb461, 0x761246ca, 0x6b0d58a3) &&
        seqWord t.seq == 0x106) = true := by decide +kernel

theorem test_qr6 :
    nextSat (step (atSlot colV20 6))
      (fun t => (t.x[2], t.x[7], t.x[8], t.x[13]) == (0xb3457395, 0x316c801a, 0x7bf7d740, 0x6798471a) &&
        seqWord t.seq == 0x107) = true := by decide +kernel

theorem test_qr7 :
    nextSat (step (atSlot colV20 7))
      (fun t => (t.x[3], t.x[4], t.x[9], t.x[14]) == (0xf96de7dd, 0xc4b7cd22, 0x7eddd644, 0xd737f167) &&
        seqWord t.seq == 0x108) = true := by decide +kernel

/-- P5 step 80: ITER = 9, SLOT = 7 goes on to FEEDFWD. -/
theorem test_qr7_last :
    nextSat (step { blockStarted with seq := .round 9 7 }) (fun t => seqWord t.seq == 0x180) = true := by
  decide +kernel

theorem test_feedfwd :
    nextSat (step { blockStarted with x := permV20, j := 1, seq := .feedfwd })
      (fun t => t.x == sumV20 && seqWord t.seq == 0x200) = true := by decide +kernel

/-- P5 step 82: the response to BLOCK 1, and the hidden state cleared. -/
theorem test_emit_block :
    nextSat (step { blockStarted with x := sumV20, j := 1, seq := .emit })
      (fun t => t == { loadedV20 with rsp := 0x00 :: block20 }) = true := by decide +kernel

/-- EMIT of a PROCESS command leaves the block in KS and goes to 280. -/
theorem test_emit_process :
    nextSat (step { blockStarted with x := sumV20, j := 1, seq := .emit, mode := .process })
      (fun t => t.ks.toList == block20 && t.rsp == [] && t.j == 0 && seqWord t.seq == 0x280) = true := by
  decide +kernel

/-- The 70-byte PROCESS of P5 before the XORCHUNK of a chunk. -/
def atXor (ci : BitVec 33) (ks : Vector Byte 64) (obuf : List Byte) : State :=
  { zeroLoaded with
    mode := .process, nchunks := 2, ci := ci, ks := ks, dbuf := data32, obuf := obuf, seq := .xorchunk }

/-- P5 step 83: OBUF[0..63], CI 1, SEQ 080; bytes 64 to 69 still zero. -/
theorem test_xorchunk_next :
    nextSat (step (atXor 0 (Vector.ofFn fun i => block21.getD i.val 0) (List.replicate 70 0)))
      (fun t => t.obuf == out32.take 64 ++ List.replicate 6 0 && t.ci == 1 && seqWord t.seq == 0x080 &&
        t.ks == State.reset.ks && t.rsp == []) = true := by decide +kernel

/-- P5 step 167: the response is V32 and all hidden state is cleared. -/
theorem test_xorchunk_last :
    nextSat (step (atXor 1 (Vector.ofFn fun i => block22.getD i.val 0) (out32.take 64 ++ List.replicate 6 0)))
      (fun t => t == { zeroLoaded with rsp := 0x00 :: out32 }) = true := by decide +kernel

/-! ## Hardware reset, the command level, text -/

/-- R177: in the middle of a block. -/
theorem test_hardwareReset :
    nextSat (step (hostReset (atSlot initV20 3))) (fun t => t == State.reset) = true := by decide +kernel

/-- P1's BLOCK 1 and P6's 70-byte PROCESS at the command level. -/
theorem test_commandStep :
    commandStep { loadedV20 with cmd := [0x20, 0x01, 0x00, 0x00, 0x00] } =
        { loadedV20 with rsp := 0x00 :: block20 } ∧
      (commandLevel (.process 0 data32) zeroLoaded).rsp = 0x00 :: out32 := by decide +kernel

/-- R83; V45b. -/
theorem test_pseudo :
    (expandPseudo (.keystream 0 8)).map encode =
      [.bytes [0x21, 0, 0, 0, 0, 0x08, 0, 0, 0, 0, 0, 0, 0, 0, 0, 0, 0, 0, 0, 0, 0]] := by decide

/-- R82; the texts of V43 and V45. -/
theorem test_text :
    instrText (.loadnonce nonceBytes) = "LOADNONCE hex:00 00 00 09 00 00 00 4a 00 00 00 00" ∧
      instrText (.process 0 [0xff]) = "PROCESS 0x00000000, hex:ff" := by decide +kernel

/-! ## Witnesses: concrete data that meet the hypotheses of each statement together -/

/-- DecodeOfEncode: a command and a micro-operation. -/
theorem witness_DecodeOfEncode :
    (Instr.process 1 [0xff]).wellFormed = true ∧ (Instr.process 0 []).wellFormed = true ∧
      (Instr.qr7 9).wellFormed = true := by decide

/-- EncodeOfDecode: bytes and a SEQ value the decoder accepts. -/
theorem witness_EncodeOfDecode :
    decodeBytes [0x21, 0, 0, 0, 0, 0x01, 0, 0, 0, 0, 0, 0, 0, 0xff, 0x02] = .command (.process 0 [0xff]) [0x02] ∧
      decodeSeq 0x14f = .micro (.qr7 9) := by decide

/-- DecodeByLength: a whole command and one a byte short; a 4-byte counter and an 8-byte LEN. -/
theorem witness_DecodeByLength :
    decodeBytes [0x20, 0, 0, 0, 0] = .command (.block 0) [] ∧ decodeBytes [0x20, 0, 0, 0] = .incomplete ∧
      decodeBytes [] = .incomplete ∧ ([0xff, 0xff, 0xff, 0xff] : List Byte).length = 4 ∧
      (List.replicate 8 (0xff : Byte)).length = 8 := by decide

/-- IllegalOpcodes: a byte on each side. -/
theorem witness_IllegalOpcodes :
    (0x00 : Byte) ∉ [(0x01 : Byte), 0x02, 0x10, 0x11, 0x20, 0x21] ∧
      (0x22 : Byte) ∉ [(0x01 : Byte), 0x02, 0x10, 0x11, 0x20, 0x21] ∧
      (0x21 : Byte) ∈ [(0x01 : Byte), 0x02, 0x10, 0x11, 0x20, 0x21] := by decide

/-- StepRunsDecoded: a command with a byte behind it, and a busy position. -/
theorem witness_StepRunsDecoded :
    (let s := { zeroLoaded with cmd := [0x01, 0x02] };
      s.hwReset = false ∧ s.seq = .idle ∧ decodeBytes s.cmd = .command .reset [0x02] ∧
        Instr.reset.wellFormed = true) ∧
      blockStarted.hwReset = false ∧ decodeSeq (seqWord blockStarted.seq) = .micro .inject := by decide +kernel

/-- StepWaits: V47, and an empty stream. -/
theorem witness_StepWaits :
    (let s := { State.reset with cmd := [0x20, 0x01, 0x00] };
      s.hwReset = false ∧ s.seq = .idle ∧ s.cmd.length < commandLength s.cmd) ∧
      State.reset.cmd.length < commandLength State.reset.cmd := by decide

/-- HardwareResetStrikes: a busy state. -/
theorem witness_HardwareResetStrikes : (hostReset blockStarted).hwReset = true := by decide

/-- EndIsQuiet: the reset state is an end. -/
theorem witness_EndIsQuiet : Ended State.reset := ⟨rfl, rfl, rfl⟩

/-- EndedOk: likewise. -/
theorem witness_EndedOk : EndedOk zeroLoaded := ⟨⟨rfl, rfl, rfl⟩, rfl⟩

/-- RotlBits, WordInverses: both ends of the range. -/
theorem witness_RotlBits : (1 ≤ 1 ∧ 1 ≤ 31) ∧ 1 ≤ 31 ∧ 31 ≤ 31 := by decide

/-- QrxWords: the group of slot 6. -/
theorem witness_QrxWords :
    [(slotGroup 6).ia, (slotGroup 6).ib, (slotGroup 6).ic, (slotGroup 6).id].Nodup ∧
      (0 : Fin 16) ∉ [(slotGroup 6).ia, (slotGroup 6).ib, (slotGroup 6).ic, (slotGroup 6).id] := by decide

/-- RoundOrderFree: another order of each round, and a slot and index of each half. -/
theorem witness_RoundOrderFree :
    ([3, 1, 0, 2] : List (Fin 8)).Perm [0, 1, 2, 3] ∧ ([7, 6, 5, 4] : List (Fin 8)).Perm [4, 5, 6, 7] ∧
      (3 : Fin 8).val < 4 ∧ 4 ≤ (4 : Fin 8).val := by decide

/-- BlockIgnoresWord12: two base matrices that differ in word 12 (V23). -/
theorem witness_BlockIgnoresWord12 :
    (∀ i : Fin 16, i ≠ 12 → initV20[i] = (initV20.set 12 0xdeadbeef)[i]) ∧ initV20 ≠ initV20.set 12 0xdeadbeef := by
  decide +kernel

/-- BlockBytes: the last byte, 4 * 15 + 3 = 63. -/
theorem witness_BlockBytes : 15 < 16 ∧ 3 < 4 := by decide

/-- OverflowExactly: both sides, at the boundary (V35b, V36). -/
theorem witness_OverflowExactly :
    counterOverflow 0xffffffff 64 = false ∧ counterOverflow 0xffffffff 65 = true := by decide +kernel

/-- StreamBytes: a request in range with a byte in its second chunk, and one out of range. -/
theorem witness_StreamBytes :
    counterOverflow 0 data32.length = false ∧ data32[69]? = some 0x45 ∧
      counterOverflow 0xffffffff (List.replicate 65 (0 : Byte)).length = true := by decide +kernel

/-- StreamSelfInverse: V32, and other data of its length. -/
theorem witness_StreamSelfInverse :
    streamFn zeroLoaded.key zeroLoaded.nonce 0 data32 = some out32 ∧ out32.length = data32.length :=
  ⟨test_streamFn_70, by decide⟩

/-- StreamOrderFree: the two chunks of a 70-byte request, last first. -/
theorem witness_StreamOrderFree : [1, 0].Perm (List.range (chunkCount data32.length)) := by decide

/-- LanesAgree: two lanes with the second chunk on the first lane; two lanes with nothing to do are done at once. -/
theorem witness_LanesAgree :
    ([[1], [0]] : List (List Nat)).flatten.Perm (List.range (chunkCount data32.length)) ∧
      ([[], []] : List (List Nat)).flatten.Perm (List.range (chunkCount ([] : List Byte).length)) ∧
      (lanesRun (lanesStart zeroLoaded.key zeroLoaded.nonce 0 [] [[], []]) [1, 0]).done = true := by decide

/-- V32 on two lanes: the lane with chunk 1 XORs its 6 bytes first, bytes 0..63 are not yet written, and it is idle. -/
theorem test_laneStep_xorchunk :
    let l : Lane :=
      { seq := .xorchunk, x := State.reset.x, j := 0, ks := Vector.ofFn fun i => block22.getD i.val 0, chunk := 1,
        queue := [] }
    let r := laneStep { lanesStart zeroLoaded.key zeroLoaded.nonce 0 data32 [[0], []] with
      lanes := [Lane.take [0], l] } 1
    r.obuf = List.replicate 64 0 ++ out32.drop 64 ∧ r.lanes = [Lane.take [0], Lane.take []] := by decide +kernel

/-- StreamSplit: V32 split at 64 (V39, P6). -/
theorem witness_StreamSplit :
    (data32.take 64).length % 64 = 0 ∧ data32.drop 64 ≠ [] ∧
      streamFn zeroLoaded.key zeroLoaded.nonce 0 (data32.take 64 ++ data32.drop 64) = some out32 :=
  ⟨by decide, by decide, by rw [List.take_append_drop]; exact test_streamFn_70⟩

/-- StreamKeystream: P6's KEYSTREAM 0, 8, and eight data bytes. -/
theorem witness_StreamKeystream :
    streamFn zeroLoaded.key zeroLoaded.nonce 0 (List.replicate 8 0) =
        some [0x76, 0xb8, 0xe0, 0xad, 0xa0, 0xf1, 0x3d, 0x90] ∧
      (data32.take 8).length = 8 ∧ 7 < 8 := by decide +kernel

/-- ResetCompletes, StatusCompletes: idle states, one of them faulted. -/
theorem witness_ResetCompletes : zeroLoaded.seq = .idle ∧ faulted1.seq = .idle ∧ faulted1.fault ≠ 0 := by decide

/-- LoadkeyCompletes, LoadnonceCompletes: the reset state. -/
theorem witness_LoadkeyCompletes : State.reset.seq = .idle ∧ State.reset.fault = 0 ∧ 7 < 8 ∧ 2 < 3 := by decide

/-- BlockCompletes. -/
theorem witness_BlockCompletes :
    loadedV20.seq = .idle ∧ loadedV20.fault = 0 ∧ loadedV20.keyv = true ∧ loadedV20.noncev = true := by decide

/-- ProcessCompletes: the empty request, and 64 bytes at the last counter (V35b). -/
theorem witness_ProcessCompletes :
    (zeroLoaded.seq = .idle ∧ zeroLoaded.fault = 0 ∧ zeroLoaded.keyv = true ∧ zeroLoaded.noncev = true) ∧
      (let data := List.replicate 64 (0 : Byte);
        data ≠ [] ∧ (0xffffffff : Word).toNat + ((data.length + 63) / 64 - 1) ≤ 2 ^ 32 - 1) := by decide +kernel

/-- InjectCompletes: the largest sum in range. -/
theorem witness_InjectCompletes :
    (let s := { blockStarted with start := 0xfffffffe, ci := 1 };
      s.start.toNat + s.ci.toNat ≤ 2 ^ 32 - 1) := by decide +kernel

/-- QuarterRoundsComplete: QR7 of iteration 8 goes to iteration 9. -/
theorem witness_QuarterRoundsComplete : (9 : Fin 10).val = (8 : Fin 10).val + 1 := by decide

/-- EmitCompletes: a state of each mode. -/
theorem witness_EmitCompletes :
    blockStarted.mode = .block ∧ (atXor 0 State.reset.ks []).mode = .process ∧ 15 < 16 ∧ 3 < 4 := by decide

/-- XorchunkCompletes: the first of two chunks, and the last, whose byte 69 is the last data byte. -/
theorem witness_XorchunkCompletes :
    (let s := atXor 0 State.reset.ks (List.replicate 70 0);
      s.obuf.length = s.dbuf.length ∧ s.ci.toNat + 1 < 2 ^ 33 ∧ s.dbuf[64 * s.ci.toNat + 63]? = some 0x3f ∧
        s.ci.toNat + 1 < s.nchunks.toNat ∧ 64 * s.ci.toNat + 64 ≤ 64) ∧
      (let s := atXor 1 State.reset.ks (List.replicate 70 0);
        s.obuf.length = s.dbuf.length ∧ s.ci.toNat + 1 < 2 ^ 33 ∧ s.dbuf[64 * s.ci.toNat + 5]? = some 0x45 ∧
          s.nchunks.toNat ≤ s.ci.toNat + 1 ∧ 63 < 64 * s.ci.toNat) := by decide +kernel

/-- NotLoadedTaken: no load (V50), key only (V51), nonce only. -/
theorem witness_NotLoadedTaken :
    (State.reset.seq = .idle ∧ State.reset.fault = 0 ∧ State.reset.keyv = false) ∧
      (let s := { loadedV20 with noncev := false }; s.seq = .idle ∧ s.fault = 0 ∧ s.noncev = false) ∧
      (let s := { loadedV20 with keyv := false }; s.seq = .idle ∧ s.fault = 0 ∧ s.keyv = false) := by decide

/-- CounterOverflowTaken: V36, one byte too many. -/
theorem witness_CounterOverflowTaken :
    (zeroLoaded.seq = .idle ∧ zeroLoaded.fault = 0 ∧ zeroLoaded.keyv = true ∧ zeroLoaded.noncev = true) ∧
      ∃ i, i < ((List.replicate 65 (0 : Byte)).length + 63) / 64 ∧ 2 ^ 32 ≤ (0xffffffff : Word).toNat + i :=
  ⟨by decide, 1, by decide +kernel⟩

/-- BadCommandTaken: V55, with a command behind the illegal byte. -/
theorem witness_BadCommandTaken :
    (let s := { loadedV20 with cmd := [0x77, 0x02] };
      s.hwReset = false ∧ s.seq = .idle ∧ s.fault = 0 ∧ s.cmd = 0x77 :: [0x02]) ∧
      (0x77 : Byte) ∉ [(0x01 : Byte), 0x02, 0x10, 0x11, 0x20, 0x21] := by decide

/-- FaultedRefusal, FaultSticky: V56. -/
theorem witness_FaultedRefusal :
    (let s := { faulted1 with cmd := [0x77] };
      s.seq = .idle ∧ s.fault ≠ 0 ∧ s.hwReset = false ∧ s.cmd = 0x77 :: []) ∧
      (0x77 : Byte) ∉ [(0x01 : Byte), 0x02, 0x10, 0x11, 0x20, 0x21] := by decide

/-- BusyHold: a command waiting behind a block in flight, and the next state of a step. -/
theorem witness_BusyHold :
    (let s := { atSlot initV20 0 with cmd := [0x02] };
      s.seq ≠ .idle ∧ s.hwReset = false ∧ ∃ t, step s = .next t) :=
  ⟨by decide, rfl, ⟨_, rfl⟩⟩

/-- The invariants hold of a block in flight (InvariantKept, TracksKept, HostMovesKeep, BusyEnds). -/
theorem witness_MachineInv : MachineInv blockStarted where
  faultCode := by decide
  faultUnloads h := absurd rfl h
  keyUnloaded h := by cases h
  nonceUnloaded h := by cases h
  idleClear h := by cases h
  busyChecked _ := ⟨rfl, rfl⟩
  latch h := by cases h
  noLatch _ := ⟨rfl, rfl⟩
  keystream _ := rfl
  blockMode _ := ⟨by decide, rfl, rfl, rfl, rfl⟩
  processMode h := by cases h

/-- And of a 70-byte request before its first XORCHUNK, in the PROCESS mode. -/
theorem witness_MachineInv_process :
    MachineInv (atXor 0 (ksBlock zeroLoaded.key zeroLoaded.nonce 0) (List.replicate 70 0)) where
  faultCode := by decide
  faultUnloads h := absurd rfl h
  keyUnloaded h := by cases h
  nonceUnloaded h := by cases h
  idleClear h := by cases h
  busyChecked _ := ⟨rfl, rfl⟩
  latch h := by cases h
  noLatch _ := ⟨rfl, rfl⟩
  keystream h := absurd rfl h
  blockMode h := by cases h
  processMode _ := ⟨by decide, by decide, by decide, by decide, by decide⟩

theorem witness_Tracks : Tracks blockStarted where
  round _ _ h := by cases h
  feedfwd h := by cases h
  emit h := by cases h
  xorchunk h := by cases h
  output h := by cases h

theorem witness_Tracks_process : Tracks (atXor 0 (ksBlock zeroLoaded.key zeroLoaded.nonce 0) (List.replicate 70 0)) where
  round _ _ h := by cases h
  feedfwd h := by cases h
  emit h := by cases h
  xorchunk _ := by decide +kernel
  output _ := by decide +kernel

/-- IdleDetermined: the reset state and itself with a response sent. -/
theorem witness_IdleDetermined :
    (∀ rsp, MachineInv { State.reset with rsp := rsp }) ∧ State.reset.seq = .idle := by
  refine ⟨fun rsp => ?_, rfl⟩
  exact {
    faultCode := by simp [State.reset]
    faultUnloads := fun h => absurd rfl h
    keyUnloaded := fun _ => rfl
    nonceUnloaded := fun _ => rfl
    idleClear := fun _ => ⟨rfl, rfl, rfl, rfl, rfl, rfl, rfl, rfl, rfl⟩
    busyChecked := fun h => absurd rfl h
    latch := fun h => by cases h
    noLatch := fun _ => ⟨rfl, rfl⟩
    keystream := fun _ => rfl
    blockMode := fun _ => ⟨by simp [State.reset], rfl, rfl, rfl, rfl⟩
    processMode := fun h => by cases h }

/-- InvariantKept, TracksKept: and a step of that state. -/
theorem witness_InvariantKept : ∃ t, step blockStarted = .next t := ⟨_, rfl⟩

/-- HiddenClear holds of an idle state that has just been reset (CommandRefinement). -/
theorem witness_CommandRefinement :
    (let s := { loadedV20 with cmd := [0x20, 0x01, 0x00, 0x00, 0x00] };
      s.hwReset = false ∧ s.seq = .idle ∧ HiddenClear s ∧ stepsOfNextCommand s = 84) :=
  ⟨rfl, rfl, ⟨rfl, rfl, rfl, rfl, rfl, rfl, rfl, rfl, rfl⟩, by decide +kernel⟩

/-- FaultSticky: a faulted CORE, with a RESET command and with none. -/
theorem witness_FaultSticky :
    faulted1.fault ≠ 0 ∧ (∃ t, step faulted1 = .next t) ∧
      ∃ t, step { faulted1 with cmd := [0x01] } = .next t ∧ t.fault = 0 :=
  ⟨by decide, ⟨_, rfl⟩, ⟨_, rfl, rfl⟩⟩

/-- KeyWriters: steps that change KEY and NONCE: a load of each, and a fault entry. -/
theorem witness_KeyWriters :
    nextSat (step { State.reset with cmd := 0x10 :: keyBytes.toList }) (fun t => t.key != State.reset.key) = true ∧
      nextSat (step { State.reset with cmd := 0x11 :: nonceBytes.toList })
        (fun t => t.nonce != State.reset.nonce) = true ∧
      nextSat (step { loadedV20 with cmd := [0x77] })
        (fun t => t.key != loadedV20.key && t.nonce != loadedV20.nonce) = true := by decide +kernel

/-- KeyUnreadable: a STATUS command in front, and an empty stream. -/
theorem witness_KeyUnreadable :
    (let s := { loadedV20 with cmd := [0x02] };
      s.seq = .idle ∧ decodeBytes s.cmd = .command .status [] ∧ ∃ t, step s = .next t) ∧
      decodeBytes loadedV20.cmd = .incomplete :=
  ⟨⟨rfl, rfl, ⟨_, rfl⟩⟩, rfl⟩

/-- ScheduleDataIndependent: two states at the same position with different keys and matrices. -/
theorem witness_ScheduleDataIndependent :
    (let s := atSlot initV20 0
      let s' := { atSlot permV20 0 with key := State.reset.key, start := 5 };
      s ≠ s' ∧ s.seq ≠ .idle ∧ s.hwReset = false ∧ s'.hwReset = false ∧ s'.seq = s.seq ∧ s'.mode = s.mode ∧
        s'.nchunks = s.nchunks ∧ s'.ci = s.ci ∧ (∃ t, step s = .next t) ∧ ∃ t, step s' = .next t) :=
  ⟨by decide +kernel, by decide, rfl, rfl, rfl, rfl, rfl, rfl, ⟨_, rfl⟩, ⟨_, rfl⟩⟩

/-- ResponsesWhole: a step with a response and one without. -/
theorem witness_ResponsesWhole :
    (∃ t, step { State.reset with cmd := [0x77] } = .next t ∧ t.rsp = [0x83]) ∧
      ∃ t, step blockStarted = .next t ∧ t.rsp = [] := ⟨⟨_, rfl, by decide⟩, ⟨_, rfl, rfl⟩⟩

/-- LoadsIdempotent: each of the three, issued twice. -/
theorem witness_LoadsIdempotent :
    (∃ t u, exec (.loadkey keyBytes) State.reset = .next t ∧ exec (.loadkey keyBytes) t = .next u) ∧
      (∃ t u, exec (.loadnonce nonceBytes) State.reset = .next t ∧ exec (.loadnonce nonceBytes) t = .next u) ∧
      ∃ t u, exec .reset loadedV20 = .next t ∧ exec .reset t = .next u :=
  ⟨⟨_, _, rfl, rfl⟩, ⟨_, _, rfl, rfl⟩, ⟨_, _, rfl, rfl⟩⟩

/-- BlockSchedule: a block just accepted, of either mode. -/
theorem witness_BlockSchedule :
    blockStarted.seq = .inject ∧ blockStarted.hwReset = false ∧
      ({ blockStarted with mode := .process, nchunks := 1 } : State).seq = .inject := by decide

/-- BusyEnds: with witness_MachineInv and witness_MachineInv_process. -/
theorem witness_BusyEnds :
    (blockStarted.hwReset = false ∧ blockStarted.seq ≠ .idle) ∧
      (let s := atXor 0 (ksBlock zeroLoaded.key zeroLoaded.nonce 0) (List.replicate 70 0);
        s.hwReset = false ∧ s.seq ≠ .idle) := by decide

end Sys2Proof.Tests
end

section
/-! Every instruction and every step answers a next state (spec/00_scope.md R8, spec/60_exceptions.md R225). -/

namespace Sys2Proof

open Sys2Proof.Machine

/-- Each of the eighteen meanings is a next state; no arm faults or refuses. -/
theorem exec_next (i : Instr) (s : State) : ∃ t, exec i s = .next t := by
  cases i <;> exact ⟨_, rfl⟩

theorem step_next (s : State) : ∃ t, step s = .next t := by
  unfold step
  cases fetch s with
  | run i s' => exact exec_next i s'
  | done s' => exact ⟨s', rfl⟩

/-- Settles O44. -/
theorem stepAlwaysNext : Obligations.StepAlwaysNext := ⟨exec_next, step_next⟩

end Sys2Proof
end

section
/-! The invariants and the host's channels: no invariant reads the command stream, the response stream or the reset
request (spec/10_state.md R36), so the host's moves (spec/00_scope.md R7) keep them. -/

namespace Sys2Proof

open Sys2Proof.Machine

theorem HiddenClear.withChannels {s : State} (h : HiddenClear s) (cmd rsp : List Byte) (hw : Bool) :
    HiddenClear { s with cmd := cmd, rsp := rsp, hwReset := hw } :=
  ⟨h.x, h.j, h.mode, h.start, h.nchunks, h.ci, h.ks, h.dbuf, h.obuf⟩

theorem BlockInFlight.withChannels {s : State} (h : BlockInFlight s) (cmd rsp : List Byte) (hw : Bool) :
    BlockInFlight { s with cmd := cmd, rsp := rsp, hwReset := hw } :=
  ⟨h.position, h.nchunks, h.ci, h.dbuf, h.obuf⟩

theorem ProcessInFlight.withChannels {s : State} (h : ProcessInFlight s) (cmd rsp : List Byte) (hw : Bool) :
    ProcessInFlight { s with cmd := cmd, rsp := rsp, hwReset := hw } :=
  ⟨h.busy, h.chunks, h.index, h.range, h.length⟩

theorem MachineInv.withChannels {s : State} (h : MachineInv s) (cmd rsp : List Byte) (hw : Bool) :
    MachineInv { s with cmd := cmd, rsp := rsp, hwReset := hw } where
  faultCode := h.faultCode
  faultUnloads := h.faultUnloads
  keyUnloaded := h.keyUnloaded
  nonceUnloaded := h.nonceUnloaded
  idleClear := fun hq => (h.idleClear hq).withChannels cmd rsp hw
  busyChecked := h.busyChecked
  latch := h.latch
  noLatch := h.noLatch
  keystream := h.keystream
  blockMode := fun hm => (h.blockMode hm).withChannels cmd rsp hw
  processMode := fun hm => (h.processMode hm).withChannels cmd rsp hw

theorem Tracks.withChannels {s : State} (h : Tracks s) (cmd rsp : List Byte) (hw : Bool) :
    Tracks { s with cmd := cmd, rsp := rsp, hwReset := hw } :=
  ⟨h.round, h.feedfwd, h.emit, h.xorchunk, h.output⟩

theorem hiddenClear_reset : HiddenClear State.reset := ⟨rfl, rfl, rfl, rfl, rfl, rfl, rfl, rfl, rfl⟩

theorem machineInv_reset : MachineInv State.reset where
  faultCode := Nat.zero_le 3
  faultUnloads := fun h => absurd rfl h
  keyUnloaded := fun _ => rfl
  nonceUnloaded := fun _ => rfl
  idleClear := fun _ => hiddenClear_reset
  busyChecked := fun h => absurd rfl h
  latch := nofun
  noLatch := fun _ => ⟨rfl, rfl⟩
  keystream := fun _ => rfl
  blockMode := fun _ => ⟨nofun, rfl, rfl, rfl, rfl⟩
  processMode := nofun

theorem tracks_reset : Tracks State.reset where
  round := nofun
  feedfwd := nofun
  emit := nofun
  xorchunk := nofun
  output := nofun

/-- Serving a hardware reset establishes the machine invariant, whatever the state before (R177). -/
theorem machineInv_hardwareReset (s : State) : MachineInv (hardwareReset s) :=
  machineInv_reset.withChannels s.cmd s.rsp false

theorem tracks_hardwareReset (s : State) : Tracks (hardwareReset s) :=
  tracks_reset.withChannels s.cmd s.rsp false

/-- Settles O49: the host's moves write only its channels, and the step after an asserted reset is hardwareReset. -/
theorem hostMovesKeep : Obligations.HostMovesKeep := by
  refine ⟨fun s bs hi ht => ?_, fun s hi ht => ?_, fun s t h => ?_⟩
  · exact ⟨hi.withChannels (s.cmd ++ bs) s.rsp s.hwReset, ht.withChannels (s.cmd ++ bs) s.rsp s.hwReset⟩
  · exact ⟨hi.withChannels s.cmd s.rsp true, ht.withChannels s.cmd s.rsp true⟩
  · rw [step_hwReset (hostReset_hwReset s), Host.Outcome.next.injEq] at h
    subst h
    exact ⟨machineInv_hardwareReset _, tracks_hardwareReset _, rfl⟩

end Sys2Proof
end

section
/-! What the command stream can carry: the decoder answers one of the six host commands, never a micro-operation
(spec/30_encoding.md R76). -/

namespace Sys2Proof

theorem decodeLoadkey_command {tl rest : List Byte} {i : Instr} (h : decodeLoadkey tl = .command i rest) :
    ∃ k, i = .loadkey k := by
  unfold decodeLoadkey at h
  split at h <;> cases h
  exact ⟨_, rfl⟩

theorem decodeLoadnonce_command {tl rest : List Byte} {i : Instr} (h : decodeLoadnonce tl = .command i rest) :
    ∃ n, i = .loadnonce n := by
  unfold decodeLoadnonce at h
  split at h <;> cases h
  exact ⟨_, rfl⟩

theorem decodeBlock_command {tl rest : List Byte} {i : Instr} (h : decodeBlock tl = .command i rest) :
    ∃ ctr, i = .block ctr := by
  unfold decodeBlock at h
  split at h <;> cases h
  exact ⟨_, rfl⟩

theorem decodeProcess_command {tl rest : List Byte} {i : Instr} (h : decodeProcess tl = .command i rest) :
    ∃ ctr data, i = .process ctr data := by
  unfold decodeProcess at h
  split at h
  · dsimp only at h
    split at h <;> cases h
    exact ⟨_, _, rfl⟩
  · cases h

/-- The six host commands are all the decoder answers, by its opcode map (R76). -/
theorem decodeBytes_command_cases {bs rest : List Byte} {i : Instr} (h : decodeBytes bs = .command i rest) :
    i = .reset ∨ i = .status ∨ (∃ k, i = .loadkey k) ∨ (∃ n, i = .loadnonce n) ∨ (∃ ctr, i = .block ctr) ∨
      ∃ ctr data, i = .process ctr data := by
  cases bs with
  | nil => cases h
  | cons op tl =>
    simp only [decodeBytes] at h
    split_ifs at h
    · cases h
      exact .inl rfl
    · cases h
      exact .inr (.inl rfl)
    · exact .inr (.inr (.inl (decodeLoadkey_command h)))
    · exact .inr (.inr (.inr (.inl (decodeLoadnonce_command h))))
    · exact .inr (.inr (.inr (.inr (.inl (decodeBlock_command h)))))
    · exact .inr (.inr (.inr (.inr (.inr (decodeProcess_command h)))))

end Sys2Proof
end

section
/-! Runs of the micro-operations (spec/42_block_function.md R138, R143; spec/43_stream.md R161): the slots of a round,
the ten iterations, a block up to EMIT, a chunk, the chunk loop. -/

namespace Sys2Proof

open Sys2Proof.Machine

/-- One more step at the end of a run. -/
theorem runSteps_snoc {n : Nat} {s t u : State} (hn : runSteps n s = .next t) (h : step t = .next u) :
    runSteps (n + 1) s = .next u := by
  rw [runSteps_add 1 hn, runSteps_one h]

theorem qrAdvance_slot (iter : Fin 10) (slot : Fin 8) (h : slot.val + 1 < 8) :
    qrAdvance iter slot = .round iter ⟨slot.val + 1, h⟩ := by
  simp [qrAdvance, show slot.val < 7 by omega, Fin.ofNat, Nat.mod_eq_of_lt h]

theorem qrAdvance_iter (iter : Fin 10) (h : iter.val + 1 < 10) : qrAdvance iter 7 = .round ⟨iter.val + 1, h⟩ 0 := by
  simp [qrAdvance, show iter.val < 9 by omega, Fin.ofNat, Nat.mod_eq_of_lt h]

/-- The first n slots of an iteration (R143). -/
theorem runSteps_slots {s : State} {iter : Fin 10} (hr : s.hwReset = false) (hq : s.seq = .round iter 0)
    (n : Nat) (hn : n < 8) :
    runSteps n s = .next { s with x := slotsUpTo n s.x, seq := .round iter ⟨n, hn⟩ } := by
  induction n with
  | zero => rw [runSteps_zero, slotsUpTo_zero, Fin.mk_zero, ← hq]
  | succ n ih =>
    have hstep := step_round (s := { s with x := slotsUpTo n s.x, seq := .round iter ⟨n, by omega⟩ }) hr rfl
    rw [runSteps_snoc (ih (by omega)) hstep, qrStep, qrAdvance_slot _ _ hn, slotsUpTo_succ ⟨n, by omega⟩]

/-- The eight slots of an iteration are one double round (R143). -/
theorem runSteps_iteration {s : State} {iter : Fin 10} (hr : s.hwReset = false) (hq : s.seq = .round iter 0) :
    runSteps 8 s = .next { s with x := doubleRound s.x, seq := qrAdvance iter 7 } := by
  have hstep := step_round (s := { s with x := slotsUpTo 7 s.x, seq := .round iter 7 }) hr rfl
  rw [runSteps_snoc (runSteps_slots hr hq 7 (by omega)) hstep, ← slotsUpTo_eight]
  rfl

/-- The first t iterations of a block (R143). -/
theorem runSteps_iterations {s : State} (hr : s.hwReset = false) (hq : s.seq = .round 0 0) (t : Nat) (ht : t < 10) :
    runSteps (8 * t) s = .next { s with x := doubleRounds t s.x, seq := .round ⟨t, ht⟩ 0 } := by
  induction t with
  | zero =>
    show Host.Outcome.next s = .next { s with x := s.x, seq := .round 0 0 }
    rw [← hq]
  | succ t ih =>
    rw [Nat.mul_succ, runSteps_add 8 (ih (by omega)),
      runSteps_iteration (s := { s with x := doubleRounds t s.x, seq := .round ⟨t, by omega⟩ 0 }) hr rfl,
      qrAdvance_iter _ ht, doubleRounds_succ]

/-- The 80 quarter-rounds of a block are PERMUTE (R132, R143). -/
theorem runSteps_permute {s : State} (hr : s.hwReset = false) (hq : s.seq = .round 0 0) :
    runSteps 80 s = .next { s with x := permute s.x, seq := .feedfwd } := by
  have hnine : runSteps 72 s = .next { s with x := doubleRounds 9 s.x, seq := .round 9 0 } :=
    runSteps_iterations hr hq 9 (by omega)
  rw [permute_eq, doubleRounds_succ]
  exact (runSteps_add 8 hnine).trans (runSteps_iteration (iter := 9) hr rfl)

/-- The state at EMIT of the block of chunk CI: X is the feed-forward of PERMUTE (R141, R143). -/
def atEmit (s : State) : State :=
  { s with
    j := chunkCounter s.start s.ci.toNat, x := feedfwdFn (permute (initOf s)) (initOf s), seq := .emit }

/-- EMIT serialises the keystream block of the chunk (R135). -/
theorem serialize_atEmit (s : State) :
    serialize (atEmit s).x = ksBlock s.key s.nonce (chunkCounter s.start s.ci.toNat) := by
  rw [ksBlock_eq]
  rfl

/-- From INJECT to EMIT, in either mode, are 82 micro-operations (R138). -/
theorem runSteps_atEmit {s : State} (hr : s.hwReset = false) (hq : s.seq = .inject) :
    runSteps 82 s = .next (atEmit s) := by
  have hinject := runSteps_one (step_inject hr hq)
  have hrounds := (runSteps_add 80 hinject).trans (runSteps_permute (s := doInject s) hr rfl)
  exact runSteps_snoc hrounds (step_feedfwd hr rfl)

/-- In BLOCK mode the 83rd micro-operation answers the command (R142). -/
theorem runSteps_block {s : State} (hr : s.hwReset = false) (hq : s.seq = .inject) (hm : s.mode = .block) :
    runSteps 83 s =
      .next (respondOk (ksBlock s.key s.nonce (chunkCounter s.start s.ci.toNat)).toList
        { s with
          x := State.reset.x, j := 0, ks := State.reset.ks, start := 0, nchunks := 0, ci := 0, seq := .idle }) := by
  rw [runSteps_snoc (runSteps_atEmit hr hq) (step_emit hr rfl), doEmit_block (s := atEmit s) hm, serialize_atEmit]
  rfl

/-- The state in which XORCHUNK finds the block of chunk CI in KS (R142). -/
def atXorchunk (s : State) : State :=
  { s with
    ks := ksBlock s.key s.nonce (chunkCounter s.start s.ci.toNat), x := State.reset.x, j := 0, seq := .xorchunk }

/-- The XOR of the chunk in flight is one chunk of STREAMFN (R155, R161). -/
theorem xoredBuffer_atXorchunk (s : State) :
    xoredBuffer (atXorchunk s) = streamChunk s.key s.nonce s.start s.dbuf s.obuf s.ci.toNat := rfl

/-- A chunk of a PROCESS command takes 84 micro-operations, the last of them XORCHUNK (R161). -/
theorem runSteps_chunk {s : State} (hr : s.hwReset = false) (hq : s.seq = .inject) (hm : s.mode = .process) :
    runSteps 84 s = .next (doXorchunk (atXorchunk s)) := by
  have hemit : doEmit (atEmit s) = atXorchunk s := by
    rw [doEmit_process (s := atEmit s) hm, serialize_atEmit]
    rfl
  have hstep : step (atEmit s) = .next (atXorchunk s) := by rw [step_emit (s := atEmit s) hr rfl, hemit]
  exact runSteps_snoc (runSteps_snoc (runSteps_atEmit hr hq) hstep) (step_xorchunk hr rfl)

/-- A count below 2^33 is unchanged by the registers NCHUNKS and CI (R20). -/
theorem toNat_ofNat33 {n : Nat} (h : n < 2 ^ 33) : (BitVec.ofNat 33 n).toNat = n :=
  (BitVec.toNat_ofNat n 33).trans (Nat.mod_eq_of_lt h)

theorem nextChunk_ofNat {i : Nat} (h : i + 1 < 2 ^ 33) : nextChunk (BitVec.ofNat 33 i) = BitVec.ofNat 33 (i + 1) := by
  have hi : (BitVec.ofNat 33 i).toNat = i := toNat_ofNat33 (by omega)
  apply BitVec.eq_of_toNat_eq
  rw [nextChunk_toNat (by omega), hi, toNat_ofNat33 h]

/-- A PROCESS command at INJECT with its first i chunks done (R161). -/
def chunksDone (s : State) (i : Nat) : State :=
  { s with
    obuf := streamInOrder s.key s.nonce s.start s.dbuf (List.range i), ci := BitVec.ofNat 33 i, seq := .inject }

section ChunkLoop

variable {s : State} {i : Nat}

/-- The XOR of chunk i after the chunks before it gives the output of i + 1 chunks. -/
theorem xoredBuffer_chunksDone (hi : i < 2 ^ 33) :
    xoredBuffer (atXorchunk (chunksDone s i)) = (chunksDone s (i + 1)).obuf := by
  have hci : (BitVec.ofNat 33 i).toNat = i := toNat_ofNat33 hi
  simp only [xoredBuffer_atXorchunk, chunksDone, hci, List.range_succ, streamInOrder_append]

/-- A chunk that is not the last moves the loop on by one (R161). -/
theorem doXorchunk_chunksDone (hx : s.x = State.reset.x) (hj : s.j = 0) (hks : s.ks = State.reset.ks)
    (hi : i + 1 < s.nchunks.toNat) : doXorchunk (atXorchunk (chunksDone s i)) = chunksDone s (i + 1) := by
  have hn := s.nchunks.isLt
  have hnext : nextChunk (atXorchunk (chunksDone s i)).ci = BitVec.ofNat 33 (i + 1) := nextChunk_ofNat (by omega)
  have hlt : (nextChunk (atXorchunk (chunksDone s i)).ci).toNat < s.nchunks.toNat := by
    rwa [hnext, toNat_ofNat33 (by omega)]
  rw [doXorchunk_next hlt, xoredBuffer_chunksDone (by omega), hnext]
  simp only [atXorchunk, chunksDone, ← hx, ← hj, ← hks]

/-- The last chunk answers the command and clears the hidden state (R161). -/
theorem doXorchunk_chunksDone_last (hi : i + 1 = s.nchunks.toNat) :
    doXorchunk (atXorchunk (chunksDone s i)) = respondOk (chunksDone s (i + 1)).obuf (clearHidden s) := by
  have hn := s.nchunks.isLt
  have hnext : nextChunk (atXorchunk (chunksDone s i)).ci = BitVec.ofNat 33 (i + 1) := nextChunk_ofNat (by omega)
  have hlast : ¬(nextChunk (atXorchunk (chunksDone s i)).ci).toNat < s.nchunks.toNat := by
    rw [hnext, toNat_ofNat33 (by omega), hi]
    exact lt_irrefl _
  rw [doXorchunk_last hlast, xoredBuffer_chunksDone (by omega)]
  rfl

/-- The chunk loop up to chunk i (R161). -/
theorem runSteps_chunksDone (hr : s.hwReset = false) (hm : s.mode = .process) (hx : s.x = State.reset.x)
    (hj : s.j = 0) (hks : s.ks = State.reset.ks) (hi : i < s.nchunks.toNat) :
    runSteps (84 * i) (chunksDone s 0) = .next (chunksDone s i) := by
  induction i with
  | zero => rfl
  | succ i ih =>
    rw [Nat.mul_succ, runSteps_add 84 (ih (by omega)), runSteps_chunk (s := chunksDone s i) hr rfl hm,
      doXorchunk_chunksDone hx hj hks hi]

/-- The whole chunk loop: 84 micro-operations a chunk, then the answer and the hidden state cleared (R161). -/
theorem runSteps_allChunks (hr : s.hwReset = false) (hm : s.mode = .process) (hx : s.x = State.reset.x)
    (hj : s.j = 0) (hks : s.ks = State.reset.ks) (hn : s.nchunks.toNat ≠ 0) :
    runSteps (84 * s.nchunks.toNat) (chunksDone s 0) =
      .next (respondOk (streamInOrder s.key s.nonce s.start s.dbuf (List.range s.nchunks.toNat)) (clearHidden s)) := by
  obtain ⟨i, hi⟩ := Nat.exists_eq_succ_of_ne_zero hn
  rw [hi, Nat.mul_succ, runSteps_add 84 (runSteps_chunksDone hr hm hx hj hks (by omega)),
    runSteps_chunk (s := chunksDone s i) hr rfl hm, doXorchunk_chunksDone_last hi.symm]
  rfl

end ChunkLoop

end Sys2Proof
end

section
/-! The micro-step level refines the command level (spec/00_scope.md R4): each command, from an idle state with the
hidden state clear. -/

namespace Sys2Proof

open Sys2Proof.Machine

/-- In the idle state with the hidden state clear, clearing it changes nothing (R35). -/
theorem clearHidden_eq_self {s : State} (h : HiddenClear s) (hq : s.seq = .idle) : clearHidden s = s := by
  obtain ⟨hx, hj, hmode, hstart, hnchunks, hci, hks, hdbuf, hobuf⟩ := h
  cases s
  simp_all only [clearHidden]

/-- A BLOCK or PROCESS that is turned away never looks at what it would have been accepted to. -/
theorem whenLoaded_turnedAway {s : State} (a b : State) (h : ¬(s.fault = 0 ∧ loaded s = true)) :
    whenLoaded s a = whenLoaded s b := by
  by_cases hf : s.fault = 0
  · simp [whenLoaded, show loaded s = false by simpa [hf] using h]
  · rw [whenLoaded, whenOperational, if_pos hf, whenLoaded, whenOperational, if_pos hf]

/-- The state at INJECT after the acceptance of a PROCESS command has no chunk done (R161). -/
theorem startProcess_eq_chunksDone (ctr : Word) (data : List Byte) (s : State) :
    startProcess ctr data s = chunksDone (startProcess ctr data s) 0 := rfl

section StreamFn

variable (key : Vector Word 8) (nonce : Vector Word 3) {start : Word} {data : List Byte}

theorem streamFn_overflow (ho : counterOverflow start data.length = true) : streamFn key nonce start data = none :=
  if_pos ho

theorem streamFn_accepted (ho : counterOverflow start data.length = false) :
    streamFn key nonce start data =
      some (streamInOrder key nonce start data (List.range (chunkCount data.length))) := by
  simp [streamFn, ho]

/-- A request of no chunk cannot overflow and has no output (R154, R161). -/
theorem streamFn_empty (hn : chunkCount data.length = 0) : streamFn key nonce start data = some [] := by
  have hlen : data.length = 0 := by
    unfold chunkCount at hn
    omega
  rw [streamFn_accepted key nonce ((counterOverflow_eq_false start data.length).mpr (.inl hn)), hn]
  simp [streamInOrder, hlen]

end StreamFn

section Commands

variable {s : State} (h : HiddenClear s) (hr : s.hwReset = false) (hq : s.seq = .idle)

include h hr hq

/-- An accepted BLOCK ends in the answer of the command level (R175). -/
theorem runSteps_startBlock (ctr : Word) :
    runSteps 83 (startBlock ctr s) = .next (respondOk (ksBlock s.key s.nonce ctr).toList s) := by
  have hrun := runSteps_block (s := startBlock ctr s) hr rfl rfl
  have hctr : chunkCounter (startBlock ctr s).start (startBlock ctr s).ci.toNat = ctr := chunkCounter_zero ctr
  rw [hrun, hctr, Host.Outcome.next.injEq]
  conv_rhs => rw [← clearHidden_eq_self h hq]
  simp only [startBlock, clearHidden, h.dbuf, h.obuf]

/-- An accepted PROCESS with data ends in the answer of the command level (R176). -/
theorem runSteps_startProcess (ctr : Word) (data : List Byte) (hfit : chunkCount data.length ≤ 2 ^ 32)
    (hn : chunkCount data.length ≠ 0) :
    runSteps (84 * chunkCount data.length) (startProcess ctr data s) =
      .next (respondOk (streamInOrder s.key s.nonce ctr data (List.range (chunkCount data.length))) s) := by
  have hcount : (startProcess ctr data s).nchunks.toNat = chunkCount data.length := by
    rw [startProcess_nchunks, toNat_ofNat33 (by omega)]
  have hrun := runSteps_allChunks (s := startProcess ctr data s) hr rfl h.x h.j h.ks (by omega)
  rw [hcount] at hrun
  have hclear : clearHidden (startProcess ctr data s) = s := clearHidden_eq_self h hq
  rw [startProcess_eq_chunksDone, hrun, hclear]
  rfl

/-- BLOCK and its micro-operations end as at the command level (R175). -/
theorem runSteps_execBlock (ctr : Word) :
    runSteps (microSteps (.block ctr) s) (whenLoaded s (startBlock ctr s)) = .next (commandBlock ctr s) := by
  unfold commandBlock
  by_cases hacc : s.fault = 0 ∧ loaded s = true
  · obtain ⟨hf, hl⟩ := hacc
    rw [whenLoaded_accept _ hq hf hl, whenLoaded_accept _ hq hf hl, ← runSteps_startBlock h hr hq ctr]
    simp [microSteps, hf, hl]
  · rw [whenLoaded_turnedAway (respondOk (ksBlock s.key s.nonce ctr).toList s) (startBlock ctr s) hacc]
    simp only [microSteps, if_neg hacc, runSteps_zero]

/-- PROCESS and its micro-operations end as at the command level: turned away, CounterOverflow, the empty answer, or
the chunk loop (R176). -/
theorem runSteps_execProcess (ctr : Word) (data : List Byte) :
    runSteps (microSteps (.process ctr data) s) (whenLoaded s (acceptProcess ctr data s)) =
      .next (commandProcess ctr data s) := by
  by_cases hacc : s.fault = 0 ∧ loaded s = true
  · obtain ⟨hf, hl⟩ := hacc
    rw [commandProcess, whenLoaded_accept _ hq hf hl, whenLoaded_accept _ hq hf hl]
    rcases acceptProcess_cases ctr data s with ⟨ho, ha⟩ | ⟨ho, hn, ha⟩ | ⟨ho, hn, ha⟩
    · simp [microSteps, streamFn_overflow, ho, ha, runSteps_zero]
    · simp [microSteps, streamFn_empty, hn, ha, runSteps_zero]
    · simp [microSteps, streamFn_accepted, hf, hl, ho, ha,
        runSteps_startProcess h hr hq ctr data (chunkCount_fits ho) hn]
  · have hnone : microSteps (.process ctr data) s = 0 := if_neg fun ⟨hf, hl, _⟩ => hacc ⟨hf, hl⟩
    rw [hnone, runSteps_zero, commandProcess]
    exact congrArg _ (whenLoaded_turnedAway _ _ hacc)

/-- Every command the stream can carry: its acceptance and its micro-operations end as at the command level. -/
theorem exec_refines_commandLevel {bs rest : List Byte} {i : Instr} (hd : decodeBytes bs = .command i rest) :
    ∃ t, exec i s = .next t ∧ runSteps (microSteps i s) t = .next (commandLevel i s) := by
  rcases decodeBytes_command_cases hd with rfl | rfl | ⟨k, rfl⟩ | ⟨n, rfl⟩ | ⟨ctr, rfl⟩ | ⟨ctr, data, rfl⟩
  · exact ⟨doReset s, rfl, rfl⟩
  · exact ⟨doStatus s, rfl, rfl⟩
  · exact ⟨doLoadkey k s, rfl, rfl⟩
  · exact ⟨doLoadnonce n s, rfl, rfl⟩
  · exact ⟨_, rfl, runSteps_execBlock h hr hq ctr⟩
  · exact ⟨_, rfl, runSteps_execProcess h hr hq ctr data⟩

end Commands

/-- Settles O57: by what the decoder answers on the stream; a whole command by exec_refines_commandLevel, an illegal or
an incomplete one by the same step at both levels. -/
theorem commandRefinement : Obligations.CommandRefinement := by
  intro s hr hq h
  cases hd : decodeBytes s.cmd with
  | command i rest =>
    obtain ⟨t, ht, hrun⟩ := exec_refines_commandLevel (h.withChannels rest s.rsp s.hwReset) hr hq hd
    have hsteps : stepsOfNextCommand s = microSteps i { s with cmd := rest } + 1 := by
      simp [stepsOfNextCommand, fetchCommand, hd, Nat.add_comm]
    rw [hsteps, runSteps_succ _ ((step_command hr hq hd).trans ht), hrun, commandStep_command hr hq hd]
  | illegal op rest =>
    have hsteps : stepsOfNextCommand s = 1 := by simp [stepsOfNextCommand, fetchCommand, hd]
    rw [hsteps, runSteps_one (step_illegal hr hq hd), commandStep_illegal hr hq hd]
  | incomplete =>
    have hsteps : stepsOfNextCommand s = 1 := by simp [stepsOfNextCommand, fetchCommand, hd]
    rw [hsteps, runSteps_one (step_incomplete hr hq hd), commandStep_incomplete hr hq hd]

end Sys2Proof
end

section
/-! One step of an idle CORE, said once and for every command (spec/44_commands.md R170), and the registers that no
micro-operation writes (spec/10_state.md R24, R25, R32). -/

namespace Sys2Proof

open Sys2Proof.Machine

/-- What one step makes of an idle CORE: each way through the order of checks of R170, with the checks it passed. -/
inductive IdleStep (s : State) : State → Prop where
  /-- R177. -/
  | hardwareReset (hr : s.hwReset = true) : IdleStep s (hardwareReset s)
  /-- R78: no whole command has arrived. -/
  | waits (hd : decodeBytes s.cmd = .incomplete) : IdleStep s s
  /-- R171. -/
  | reset {rest : List Byte} (hd : decodeBytes s.cmd = .command .reset rest) :
    IdleStep s (respondOk [] (resetCore { s with cmd := rest }))
  /-- R172. -/
  | status {rest : List Byte} (hd : decodeBytes s.cmd = .command .status rest) :
    IdleStep s (respondOk [statusView s] { s with cmd := rest })
  /-- R224: any other command, or an illegal byte, in the faulted state. -/
  | refused (rest : List Byte) (hf : s.fault ≠ 0) : IdleStep s (answerFaulted { s with cmd := rest })
  /-- R221 to R223, R228: BadCommand, NotLoaded or CounterOverflow. -/
  | faults (rest : List Byte) (code : BitVec 4) (hf : s.fault = 0) (hc : code ≠ 0) (hc3 : code.toNat ≤ 3) :
    IdleStep s (faultEntry code { s with cmd := rest })
  /-- R173. -/
  | loadkey {k : Vector Byte 32} {rest : List Byte} (hd : decodeBytes s.cmd = .command (.loadkey k) rest)
    (hf : s.fault = 0) :
    IdleStep s (respondOk [] { s with key := keyWords k, keyv := true, cmd := rest })
  /-- R174. -/
  | loadnonce {n : Vector Byte 12} {rest : List Byte} (hd : decodeBytes s.cmd = .command (.loadnonce n) rest)
    (hf : s.fault = 0) :
    IdleStep s (respondOk [] { s with nonce := nonceWords n, noncev := true, cmd := rest })
  /-- R175. -/
  | block {ctr : Word} {rest : List Byte} (hd : decodeBytes s.cmd = .command (.block ctr) rest) (hf : s.fault = 0)
    (hl : loaded s = true) : IdleStep s (startBlock ctr { s with cmd := rest })
  /-- R161: the request of no chunk. -/
  | processEmpty {ctr : Word} {data rest : List Byte} (hd : decodeBytes s.cmd = .command (.process ctr data) rest)
    (hf : s.fault = 0) (hl : loaded s = true) (hn : chunkCount data.length = 0) :
    IdleStep s (respondOk [] { s with cmd := rest })
  /-- R176. -/
  | process {ctr : Word} {data rest : List Byte} (hd : decodeBytes s.cmd = .command (.process ctr data) rest)
    (hf : s.fault = 0) (hl : loaded s = true) (ho : counterOverflow ctr data.length = false)
    (hn : chunkCount data.length ≠ 0) : IdleStep s (startProcess ctr data { s with cmd := rest })

/-- The three ends of an accepted PROCESS (R154, R161). -/
theorem idleStep_acceptProcess {s : State} {ctr : Word} {data rest : List Byte}
    (hd : decodeBytes s.cmd = .command (.process ctr data) rest) (hf : s.fault = 0) (hl : loaded s = true) :
    IdleStep s (acceptProcess ctr data { s with cmd := rest }) := by
  rcases acceptProcess_cases ctr data { s with cmd := rest } with ⟨-, h⟩ | ⟨-, hn, h⟩ | ⟨ho, hn, h⟩
  · exact h ▸ .faults rest codeCounterOverflow hf (by decide) (by decide)
  · exact h ▸ .processEmpty hd hf hl hn
  · exact h ▸ .process hd hf hl ho hn

section Commands

variable {s : State} (hi : s.seq = .idle)

include hi

/-- LOADKEY, LOADNONCE or an illegal byte: refused, or what follows its acceptance (R170 step 3). -/
theorem idleStep_whenOperational {a : State} (rest : List Byte) (ha : s.fault = 0 → IdleStep s a) :
    IdleStep s (whenOperational { s with cmd := rest } a) := by
  rcases whenOperational_cases { s with cmd := rest } a with ⟨hb, -⟩ | ⟨-, hf, h⟩ | ⟨-, hf, h⟩
  · exact absurd hi hb
  · exact h ▸ .refused rest hf
  · rw [h]
    exact ha hf

/-- BLOCK or PROCESS: refused, NotLoaded, or what follows its acceptance (R170 steps 3 and 6). -/
theorem idleStep_whenLoaded {a : State} (rest : List Byte)
    (ha : s.fault = 0 → loaded s = true → IdleStep s a) : IdleStep s (whenLoaded { s with cmd := rest } a) := by
  rcases whenLoaded_cases { s with cmd := rest } a with ⟨hb, -⟩ | ⟨-, hf, h⟩ | ⟨-, hf, -, h⟩ | ⟨-, hf, hl, h⟩
  · exact absurd hi hb
  · exact h ▸ .refused rest hf
  · exact h ▸ .faults rest codeNotLoaded hf (by decide) (by decide)
  · rw [h]
    exact ha hf hl

/-- The six commands the stream can carry. -/
theorem idleStep_exec {i : Instr} {rest : List Byte} {t : State} (hd : decodeBytes s.cmd = .command i rest)
    (h : exec i { s with cmd := rest } = .next t) : IdleStep s t := by
  rcases decodeBytes_command_cases hd with rfl | rfl | ⟨k, rfl⟩ | ⟨n, rfl⟩ | ⟨ctr, rfl⟩ | ⟨ctr, data, rfl⟩
  · obtain rfl := Host.Outcome.next.inj h
    rw [doReset, whenIdle_accept (s := { s with cmd := rest }) _ hi]
    exact .reset hd
  · obtain rfl := Host.Outcome.next.inj h
    rw [doStatus, whenIdle_accept (s := { s with cmd := rest }) _ hi]
    exact .status hd
  · obtain rfl := Host.Outcome.next.inj h
    exact idleStep_whenOperational hi rest (.loadkey hd)
  · obtain rfl := Host.Outcome.next.inj h
    exact idleStep_whenOperational hi rest (.loadnonce hd)
  · obtain rfl := Host.Outcome.next.inj h
    exact idleStep_whenLoaded hi rest (.block hd)
  · obtain rfl := Host.Outcome.next.inj h
    exact idleStep_whenLoaded hi rest (idleStep_acceptProcess hd)

/-- A step of an idle CORE is one of the eleven ways. -/
theorem idleStep_of_step {t : State} (h : step s = .next t) : IdleStep s t := by
  rcases step_idle_cases hi h with ⟨hr, rfl⟩ | ⟨-, i, rest, hd, hx⟩ | ⟨-, op, rest, -, rfl⟩ | ⟨-, hd, rfl⟩
  · exact .hardwareReset hr
  · exact idleStep_exec hi hd hx
  · exact idleStep_whenOperational hi rest fun hf => .faults rest codeBadCommand hf (by decide) (by decide)
  · exact .waits hd

end Commands

/-- No micro-operation writes KEY, NONCE, KEYV, NONCEV or FAULT. -/
theorem step_busy_registers {s t : State} (hb : s.seq ≠ .idle) (hr : s.hwReset = false) (h : step s = .next t) :
    t.key = s.key ∧ t.nonce = s.nonce ∧ t.keyv = s.keyv ∧ t.noncev = s.noncev ∧ t.fault = s.fault := by
  rcases step_busy_cases hb h with ⟨hr', -⟩ | ⟨-, -, rfl⟩ | ⟨iter, slot, -, -, rfl⟩ | ⟨-, -, rfl⟩ | ⟨-, -, rfl⟩ |
    ⟨-, -, rfl⟩
  · exact nomatch hr.symm.trans hr'
  all_goals simp

end Sys2Proof
end

section
/-! The machine invariant is kept by every step (spec/10_state.md R20, R29, R32, R35): by the states a command or a
micro-operation can leave, idle ones and busy ones. -/

namespace Sys2Proof

open Sys2Proof.Machine

/-- An idle state meets the invariant if its hidden state is clear and its registers are in order. -/
theorem machineInv_of_idle {s : State} (hc : HiddenClear s) (hq : s.seq = .idle) (hcode : s.fault.toNat ≤ 3)
    (hunloads : s.fault ≠ 0 → s.keyv = false ∧ s.noncev = false) (hkey : s.keyv = false → s.key = State.reset.key)
    (hnonce : s.noncev = false → s.nonce = State.reset.nonce) : MachineInv s where
  faultCode := hcode
  faultUnloads := hunloads
  keyUnloaded := hkey
  nonceUnloaded := hnonce
  idleClear _ := hc
  busyChecked hb := absurd hq hb
  latch hl := by simp [hq, Seq.computing] at hl
  noLatch _ := ⟨hc.j, hc.x⟩
  keystream _ := hc.ks
  blockMode _ := ⟨by simp [hq], hc.nchunks, hc.ci, hc.dbuf, hc.obuf⟩
  processMode hm := nomatch hc.mode.symm.trans hm

/-- A busy state meets the invariant if it passed the checks of R170 and its bookkeeping is in order: what the invariant
says of the registers follows from the checks. -/
theorem machineInv_of_busy {s : State} (hb : s.seq ≠ .idle) (hchecked : s.fault = 0 ∧ loaded s = true)
    (hlatch : s.seq.computing = true → s.j = chunkCounter s.start s.ci.toNat)
    (hnoLatch : s.seq.computing = false → s.j = 0 ∧ s.x = State.reset.x)
    (hks : s.seq ≠ .xorchunk → s.ks = State.reset.ks) (hblock : s.mode = .block → BlockInFlight s)
    (hprocess : s.mode = .process → ProcessInFlight s) : MachineInv s := by
  obtain ⟨hf, hl⟩ := hchecked
  obtain ⟨hkv, hnv⟩ := loaded_eq_true.mp hl
  exact {
    faultCode := by simp [hf]
    faultUnloads := fun h => absurd hf h
    keyUnloaded := fun h => nomatch hkv.symm.trans h
    nonceUnloaded := fun h => nomatch hnv.symm.trans h
    idleClear := fun h => absurd h hb
    busyChecked := fun _ => ⟨hf, hl⟩
    latch := hlatch
    noLatch := hnoLatch
    keystream := hks
    blockMode := hblock
    processMode := hprocess }

/-! ## From an idle state -/

theorem MachineInv.respondOk {s : State} (h : MachineInv s) (payload : List Byte) :
    MachineInv (respondOk payload s) := h.withChannels s.cmd (s.rsp ++ rspOk :: payload) s.hwReset

theorem MachineInv.answerFaulted {s : State} (h : MachineInv s) : MachineInv (answerFaulted s) :=
  h.withChannels s.cmd (s.rsp ++ [rspFault codeFaulted]) s.hwReset

theorem machineInv_resetCore (s : State) : MachineInv (resetCore s) :=
  machineInv_reset.withChannels s.cmd s.rsp s.hwReset

/-- Fault entry leaves an unloaded idle CORE (R228). -/
theorem machineInv_faultEntry {code : BitVec 4} (hcode : code.toNat ≤ 3) (s : State) :
    MachineInv (faultEntry code s) :=
  machineInv_of_idle ⟨rfl, rfl, rfl, rfl, rfl, rfl, rfl, rfl, rfl⟩ rfl hcode (fun _ => ⟨rfl, rfl⟩) (fun _ => rfl)
    fun _ => rfl

section Accepted

variable {s : State} (h : MachineInv s) (hi : s.seq = .idle) (hf : s.fault = 0)

include h hi hf

theorem MachineInv.loadkey (key : Vector Word 8) : MachineInv { s with key := key, keyv := true } := by
  obtain ⟨hx, hj, hmode, hstart, hnchunks, hci, hks, hdbuf, hobuf⟩ := h.idleClear hi
  exact machineInv_of_idle ⟨hx, hj, hmode, hstart, hnchunks, hci, hks, hdbuf, hobuf⟩ hi h.faultCode
    (fun hne => absurd hf hne) nofun h.nonceUnloaded

theorem MachineInv.loadnonce (nonce : Vector Word 3) : MachineInv { s with nonce := nonce, noncev := true } := by
  obtain ⟨hx, hj, hmode, hstart, hnchunks, hci, hks, hdbuf, hobuf⟩ := h.idleClear hi
  exact machineInv_of_idle ⟨hx, hj, hmode, hstart, hnchunks, hci, hks, hdbuf, hobuf⟩ hi h.faultCode
    (fun hne => absurd hf hne) h.keyUnloaded nofun

theorem MachineInv.startBlock (hl : loaded s = true) (ctr : Word) : MachineInv (startBlock ctr s) := by
  have hc := h.idleClear hi
  exact machineInv_of_busy nofun ⟨hf, hl⟩ nofun (fun _ => ⟨hc.j, hc.x⟩) (fun _ => hc.ks)
    (fun _ => ⟨nofun, hc.nchunks, rfl, hc.dbuf, hc.obuf⟩) nofun

/-- The range check gives the bounds of NCHUNKS and of every chunk's counter (R154). -/
theorem MachineInv.startProcess (hl : loaded s = true) {ctr : Word} {data : List Byte}
    (ho : counterOverflow ctr data.length = false) (hn : chunkCount data.length ≠ 0) :
    MachineInv (startProcess ctr data s) := by
  have hc := h.idleClear hi
  have hcount : (Machine.startProcess ctr data s).nchunks.toNat = chunkCount data.length :=
    toNat_ofNat33 (by have := chunkCount_fits ho; omega)
  have hrange := ((counterOverflow_eq_false ctr data.length).mp ho).resolve_left hn
  exact machineInv_of_busy nofun ⟨hf, hl⟩ nofun (fun _ => ⟨hc.j, hc.x⟩) (fun _ => hc.ks) nofun fun _ =>
    { busy := nofun
      chunks := hcount
      index := by rw [hcount]; exact Nat.pos_of_ne_zero hn
      range := by rw [hcount]; exact hrange
      length := List.length_replicate }

end Accepted

theorem IdleStep.machineInv {s t : State} (h : MachineInv s) (hi : s.seq = .idle) (hs : IdleStep s t) :
    MachineInv t := by
  have hrest (rest : List Byte) : MachineInv { s with cmd := rest } := h.withChannels rest s.rsp s.hwReset
  cases hs with
  | hardwareReset => exact machineInv_hardwareReset s
  | waits => exact h
  | reset => exact (machineInv_resetCore _).respondOk []
  | status => exact (hrest _).respondOk _
  | refused rest => exact (hrest rest).answerFaulted
  | faults rest code _ _ hc3 => exact machineInv_faultEntry hc3 _
  | @loadkey k rest hd hf => exact ((hrest rest).loadkey hi hf _).respondOk []
  | @loadnonce n rest hd hf => exact ((hrest rest).loadnonce hi hf _).respondOk []
  | @block ctr rest hd hf hl => exact (hrest rest).startBlock hi hf hl _
  | processEmpty => exact (hrest _).respondOk []
  | @process ctr data rest hd hf hl ho hn => exact (hrest rest).startProcess hi hf hl ho hn

/-! ## From a busy state -/

theorem Seq.ne_of_computing {q : Seq} (h : q.computing = true) : q ≠ .idle ∧ q ≠ .xorchunk := by
  cases q <;> simp [Seq.computing] at h ⊢

theorem qrAdvance_computing (iter : Fin 10) (slot : Fin 8) : (qrAdvance iter slot).computing = true := by
  rcases qrAdvance_cases iter slot with ⟨_, _, h⟩ | ⟨_, _, _, h⟩ | ⟨_, _, h⟩ <;> rw [h] <;> rfl

section Busy

variable {s : State} (h : MachineInv s)

include h

/-- A micro-operation that goes on computing the block: it writes X, and J holds the chunk's counter (R29). -/
theorem MachineInv.computes (hb : s.seq ≠ .idle) (hx : s.seq ≠ .xorchunk) {x : StateMatrix} {j : Word} {q : Seq}
    (hj : j = chunkCounter s.start s.ci.toNat) (hq : q.computing = true) :
    MachineInv { s with x := x, j := j, seq := q } := by
  obtain ⟨hqi, hqx⟩ := Seq.ne_of_computing hq
  refine machineInv_of_busy hqi (h.busyChecked hb) (fun _ => hj) (fun hnc => ?_) (fun _ => h.keystream hx)
    (fun hm => ?_) fun hm => ?_
  · exact nomatch hq.symm.trans hnc
  · obtain ⟨-, hnchunks, hci, hdbuf, hobuf⟩ := h.blockMode hm
    exact ⟨hqx, hnchunks, hci, hdbuf, hobuf⟩
  · obtain ⟨-, hchunks, hindex, hrange, hlength⟩ := h.processMode hm
    exact ⟨hqi, hchunks, hindex, hrange, hlength⟩

theorem MachineInv.doInject (hq : s.seq = .inject) : MachineInv (doInject s) :=
  h.computes (by simp [hq]) (by simp [hq]) rfl rfl

theorem MachineInv.qrStep {iter : Fin 10} {slot : Fin 8} (hq : s.seq = .round iter slot) :
    MachineInv (qrStep slot iter s) :=
  h.computes (by simp [hq]) (by simp [hq]) (h.latch (by rw [hq]; rfl)) (qrAdvance_computing iter slot)

theorem MachineInv.doFeedfwd (hq : s.seq = .feedfwd) : MachineInv (doFeedfwd s) :=
  h.computes (by simp [hq]) (by simp [hq]) (h.latch (by rw [hq]; rfl)) rfl

/-- EMIT ends a BLOCK command with the hidden state clear, or goes on to XORCHUNK (R142). -/
theorem MachineInv.doEmit (hq : s.seq = .emit) : MachineInv (doEmit s) := by
  cases hm : s.mode with
  | block =>
    obtain ⟨-, hnchunks, hci, hdbuf, hobuf⟩ := h.blockMode hm
    rw [doEmit_block hm]
    refine MachineInv.respondOk ?_ _
    exact machineInv_of_idle ⟨rfl, rfl, hm, rfl, rfl, rfl, rfl, hdbuf, hobuf⟩ rfl h.faultCode h.faultUnloads
      h.keyUnloaded h.nonceUnloaded
  | process =>
    obtain ⟨-, hchunks, hindex, hrange, hlength⟩ := h.processMode hm
    rw [doEmit_process hm]
    exact machineInv_of_busy nofun (h.busyChecked (by simp [hq])) nofun (fun _ => ⟨rfl, rfl⟩) (absurd rfl)
      (fun hm' => nomatch hm.symm.trans hm') fun _ => ⟨nofun, hchunks, hindex, hrange, hlength⟩

/-- XORCHUNK is a position of PROCESS commands only (R142). -/
theorem MachineInv.process_of_xorchunk (hq : s.seq = .xorchunk) : s.mode = .process := by
  cases hm : s.mode with
  | block => exact absurd hq (h.blockMode hm).position
  | process => rfl

/-- XORCHUNK goes on to the next chunk, or ends the command with the hidden state clear (R161). -/
theorem MachineInv.doXorchunk (hq : s.seq = .xorchunk) : MachineInv (doXorchunk s) := by
  have hm := h.process_of_xorchunk hq
  obtain ⟨-, hchunks, hindex, hrange, hlength⟩ := h.processMode hm
  obtain ⟨hj, hx⟩ := h.noLatch (by rw [hq]; rfl)
  by_cases hnext : (nextChunk s.ci).toNat < s.nchunks.toNat
  · rw [doXorchunk_next hnext]
    exact machineInv_of_busy nofun (h.busyChecked (by simp [hq])) nofun (fun _ => ⟨hj, hx⟩) (fun _ => rfl)
      (fun hm' => nomatch hm.symm.trans hm') fun _ =>
        ⟨nofun, hchunks, hnext, hrange, (xorChunk_length _ _ _ _).trans hlength⟩
  · rw [doXorchunk_last hnext]
    refine MachineInv.respondOk ?_ _
    exact machineInv_of_idle ⟨hx, hj, rfl, rfl, rfl, rfl, rfl, rfl, rfl⟩ rfl h.faultCode h.faultUnloads
      h.keyUnloaded h.nonceUnloaded

theorem MachineInv.step_busy {t : State} (hb : s.seq ≠ .idle) (hs : step s = .next t) : MachineInv t := by
  rcases step_busy_cases hb hs with ⟨-, rfl⟩ | ⟨-, hq, rfl⟩ | ⟨iter, slot, -, hq, rfl⟩ | ⟨-, hq, rfl⟩ | ⟨-, hq, rfl⟩ |
    ⟨-, hq, rfl⟩
  · exact machineInv_hardwareReset s
  · exact h.doInject hq
  · exact h.qrStep hq
  · exact h.doFeedfwd hq
  · exact h.doEmit hq
  · exact h.doXorchunk hq

end Busy

/-- Settles O45: an idle CORE by the ways through the order of checks, a busy one by its micro-operation. -/
theorem invariantKept : Obligations.InvariantKept := by
  intro s t h hs
  by_cases hi : s.seq = .idle
  · exact (idleStep_of_step hi hs).machineInv h hi
  · exact h.step_busy hi hs

/-- Settles O46. -/
theorem invariantAtReset : Obligations.InvariantAtReset := ⟨machineInv_reset, tracks_reset⟩

/-- Settles O47: clearing the hidden state changes neither state and leaves only the five registers to compare. -/
theorem idleDetermined : Obligations.IdleDetermined := by
  intro s t hs ht his hit hkey hnonce hkeyv hnoncev hfault
  have hclear : clearHidden t = { clearHidden s with cmd := t.cmd, rsp := t.rsp, hwReset := t.hwReset } := by
    simp only [clearHidden, hkey, hnonce, hkeyv, hnoncev, hfault]
  rwa [clearHidden_eq_self (hs.idleClear his) his, clearHidden_eq_self (ht.idleClear hit) hit] at hclear

end Sys2Proof
end

section
/-! Who writes FAULT, KEY and NONCE (spec/10_state.md R24, R25, R32). -/

namespace Sys2Proof

open Sys2Proof.Machine

/-- An idle faulted CORE: its FAULT stays, or reset clears it (R229). -/
theorem IdleStep.fault_sticky {s t : State} (hs : IdleStep s t) (hne : s.fault ≠ 0) :
    t.fault = s.fault ∨
      t.fault = 0 ∧ (s.hwReset = true ∨ ∃ rest, decodeBytes s.cmd = .command .reset rest) := by
  cases hs with
  | hardwareReset hr => exact .inr ⟨rfl, .inl hr⟩
  | reset hd => exact .inr ⟨rfl, .inr ⟨_, hd⟩⟩
  | waits | status | refused => exact .inl rfl
  | faults _ _ hf | loadkey _ hf | loadnonce _ hf | block _ hf | processEmpty _ hf | process _ hf => exact absurd hf hne

/-- Settles O50: a busy CORE changes FAULT by hardware reset alone, an idle one by IdleStep.fault_sticky. -/
theorem faultSticky : Obligations.FaultSticky := by
  intro s t hne hs
  by_cases hi : s.seq = .idle
  · refine ((idleStep_of_step hi hs).fault_sticky hne).imp_right fun ⟨h0, hcause⟩ => ⟨h0, ?_⟩
    exact hcause.imp_right fun hd => ⟨hi, hd⟩
  · cases hr : s.hwReset with
    | true =>
      rw [step_hwReset hr, Host.Outcome.next.injEq] at hs
      exact .inr ⟨hs ▸ hardwareReset_fault s, .inl rfl⟩
    | false =>
      obtain ⟨-, -, -, -, hf⟩ := step_busy_registers hi hr hs
      exact .inl hf

/-- The writers of KEY and NONCE in an idle CORE: reset, their own load, fault entry (R24, R25, R28). -/
theorem IdleStep.keys_or_writer {s t : State} (hs : IdleStep s t) :
    (t.key ≠ s.key →
      s.hwReset = true ∨ (∃ rest, decodeBytes s.cmd = .command .reset rest) ∨
        (∃ k rest, decodeBytes s.cmd = .command (.loadkey k) rest) ∨
        (s.fault = 0 ∧ t.fault ≠ 0 ∧ t.key = Vector.replicate 8 0)) ∧
      (t.nonce ≠ s.nonce →
        s.hwReset = true ∨ (∃ rest, decodeBytes s.cmd = .command .reset rest) ∨
          (∃ n rest, decodeBytes s.cmd = .command (.loadnonce n) rest) ∨
          (s.fault = 0 ∧ t.fault ≠ 0 ∧ t.nonce = Vector.replicate 3 0)) := by
  cases hs with
  | hardwareReset hr => exact ⟨fun _ => .inl hr, fun _ => .inl hr⟩
  | reset hd => exact ⟨fun _ => .inr (.inl ⟨_, hd⟩), fun _ => .inr (.inl ⟨_, hd⟩)⟩
  | loadkey hd => exact ⟨fun _ => .inr (.inr (.inl ⟨_, _, hd⟩)), absurd rfl⟩
  | loadnonce hd => exact ⟨absurd rfl, fun _ => .inr (.inr (.inl ⟨_, _, hd⟩))⟩
  | faults rest code hf hc =>
    exact ⟨fun _ => .inr (.inr (.inr ⟨hf, hc, rfl⟩)), fun _ => .inr (.inr (.inr ⟨hf, hc, rfl⟩))⟩
  | waits | status | refused | block | processEmpty | process => exact ⟨absurd rfl, absurd rfl⟩

/-- Settles O51: a busy CORE writes neither, hardware reset apart; an idle one by IdleStep.keys_or_writer. -/
theorem keyWriters : Obligations.KeyWriters := by
  intro s t hs
  by_cases hi : s.seq = .idle
  · exact (idleStep_of_step hi hs).keys_or_writer
  · cases hr : s.hwReset with
    | true => exact ⟨fun _ => .inl rfl, fun _ => .inl rfl⟩
    | false =>
      obtain ⟨hkey, hnonce, -⟩ := step_busy_registers hi hr hs
      exact ⟨absurd hkey, absurd hnonce⟩

end Sys2Proof
end

section
/-! KEY and NONCE cannot be read out (spec/10_state.md R38): every command but BLOCK and PROCESS takes states that
differ in them alone to states that differ in them alone. -/

namespace Sys2Proof

open Sys2Proof.Machine

/-- The two states agree on everything but KEY and NONCE, the response stream included. -/
def SameButKeys (s t : State) : Prop := ∃ key nonce, t = { s with key := key, nonce := nonce }

theorem SameButKeys.refl (s : State) : SameButKeys s s := ⟨s.key, s.nonce, rfl⟩

section Operations

variable {s t a b : State} (h : SameButKeys s t)

include h

theorem SameButKeys.seq_eq : t.seq = s.seq := by
  obtain ⟨key, nonce, rfl⟩ := h
  rfl

theorem SameButKeys.fault_eq : t.fault = s.fault := by
  obtain ⟨key, nonce, rfl⟩ := h
  rfl

theorem SameButKeys.statusView_eq : statusView t = statusView s := by
  obtain ⟨key, nonce, rfl⟩ := h
  rfl

theorem SameButKeys.respondOk (payload : List Byte) : SameButKeys (respondOk payload s) (respondOk payload t) := by
  obtain ⟨key, nonce, rfl⟩ := h
  exact ⟨key, nonce, rfl⟩

theorem SameButKeys.answerFaulted : SameButKeys (answerFaulted s) (answerFaulted t) := by
  obtain ⟨key, nonce, rfl⟩ := h
  exact ⟨key, nonce, rfl⟩

theorem SameButKeys.faultEntry (code : BitVec 4) : SameButKeys (faultEntry code s) (faultEntry code t) := by
  obtain ⟨key, nonce, rfl⟩ := h
  exact .refl _

theorem SameButKeys.resetCore : SameButKeys (resetCore s) (resetCore t) := by
  obtain ⟨key, nonce, rfl⟩ := h
  exact .refl _

theorem SameButKeys.hardwareReset : SameButKeys (hardwareReset s) (hardwareReset t) := by
  obtain ⟨key, nonce, rfl⟩ := h
  exact .refl _

/-- No check of R170 up to the faulted one reads KEY or NONCE. -/
theorem SameButKeys.whenIdle (ha : SameButKeys a b) : SameButKeys (whenIdle s a) (whenIdle t b) := by
  unfold Machine.whenIdle
  rw [h.seq_eq]
  split
  · exact ha
  · exact h

theorem SameButKeys.whenOperational (ha : SameButKeys a b) :
    SameButKeys (whenOperational s a) (whenOperational t b) := by
  unfold Machine.whenOperational
  rw [h.fault_eq]
  split
  · exact h.whenIdle h.answerFaulted
  · exact h.whenIdle ha

theorem SameButKeys.doReset : SameButKeys (doReset s) (doReset t) := h.whenIdle (h.resetCore.respondOk [])

theorem SameButKeys.doStatus : SameButKeys (doStatus s) (doStatus t) := by
  refine h.whenIdle ?_
  rw [h.statusView_eq]
  exact h.respondOk _

theorem SameButKeys.doLoadkey (k : Vector Byte 32) : SameButKeys (doLoadkey k s) (doLoadkey k t) := by
  refine h.whenOperational (.respondOk ?_ [])
  obtain ⟨key, nonce, rfl⟩ := h
  exact ⟨keyWords k, nonce, rfl⟩

theorem SameButKeys.doLoadnonce (n : Vector Byte 12) : SameButKeys (doLoadnonce n s) (doLoadnonce n t) := by
  refine h.whenOperational (.respondOk ?_ [])
  obtain ⟨key, nonce, rfl⟩ := h
  exact ⟨key, nonceWords n, rfl⟩

theorem SameButKeys.badCommand : SameButKeys (badCommand s) (badCommand t) :=
  h.whenOperational (h.faultEntry codeBadCommand)

/-- Every command the stream can carry but BLOCK and PROCESS. -/
theorem SameButKeys.exec {bs rest : List Byte} {i : Instr} (hd : decodeBytes bs = .command i rest)
    (hblock : ∀ ctr, i ≠ .block ctr) (hprocess : ∀ ctr data, i ≠ .process ctr data) :
    ∃ s' t', exec i s = .next s' ∧ exec i t = .next t' ∧ SameButKeys s' t' := by
  rcases decodeBytes_command_cases hd with rfl | rfl | ⟨k, rfl⟩ | ⟨n, rfl⟩ | ⟨ctr, rfl⟩ | ⟨ctr, data, rfl⟩
  · exact ⟨_, _, rfl, rfl, h.doReset⟩
  · exact ⟨_, _, rfl, rfl, h.doStatus⟩
  · exact ⟨_, _, rfl, rfl, h.doLoadkey k⟩
  · exact ⟨_, _, rfl, rfl, h.doLoadnonce n⟩
  · exact absurd rfl (hblock ctr)
  · exact absurd rfl (hprocess ctr data)

end Operations

/-- Settles O52: both states take the same way through the step, and each way keeps SameButKeys. -/
theorem keyUnreadable : Obligations.KeyUnreadable := by
  intro s t key nonce hi hblock hprocess hs
  have hrest (rest : List Byte) :
      SameButKeys { s with cmd := rest } { s with key := key, nonce := nonce, cmd := rest } := ⟨key, nonce, rfl⟩
  suffices hstep : ∃ t', step { s with key := key, nonce := nonce } = .next t' ∧ SameButKeys t t' by
    obtain ⟨_, ht, key', nonce', rfl⟩ := hstep
    exact ⟨key', nonce', ht⟩
  rcases step_idle_cases hi hs with ⟨hr, rfl⟩ | ⟨hr, i, rest, hd, hx⟩ | ⟨hr, op, rest, hd, rfl⟩ | ⟨hr, hd, hts⟩
  · exact ⟨_, step_hwReset hr, (hrest s.cmd).hardwareReset⟩
  · obtain ⟨u, t', hu, ht, hsame⟩ :=
      (hrest rest).exec hd (fun ctr h => hblock ctr rest (h ▸ hd)) fun ctr data h => hprocess ctr data rest (h ▸ hd)
    obtain rfl := Host.Outcome.next.inj (hu.symm.trans hx)
    exact ⟨t', (step_command (s := { s with key := key, nonce := nonce }) hr hi hd).trans ht, hsame⟩
  · exact ⟨_, step_illegal hr hi hd, (hrest rest).badCommand⟩
  · exact ⟨_, step_incomplete hr hi hd, hts ▸ hrest s.cmd⟩

end Sys2Proof
end

section
/-! The sequencer's values (spec/10_state.md R30) and the reset table (R39). -/

namespace Sys2Proof

open Sys2Proof.Machine

/-- The value of (ROUND, t, n) selects the quarter-round of slot n with ITER t: the 80 values, one by one. -/
theorem decodeSeq_seqWord_round (t : Fin 10) (n : Fin 8) :
    decodeSeq (seqWord (.round t n)) = .micro (slotInstr t n) := by
  revert t n
  decide

theorem seqWord_round_toNat (t : Fin 10) (n : Fin 8) : (seqWord (.round t n)).toNat = 0x100 + 8 * t.val + n.val := by
  revert t n
  decide

/-- Settles O5: by position. -/
theorem seqSelects : Obligations.SeqSelects := by
  refine ⟨fun q => ?_, seqWord_round_toNat⟩
  cases q with
  | round t n => exact decodeSeq_seqWord_round t n
  | idle | inject | feedfwd | emit | xorchunk => rfl

/-- Settles O11: the four register files word by word, every other row as State.reset writes it. -/
theorem resetValues : Obligations.ResetValues := by
  have hzero {n k : Nat} (i : Nat) (h : i < n) : (Vector.replicate n (0 : BitVec k))[i] = 0 :=
    Vector.getElem_replicate h
  exact ⟨hzero, hzero, rfl, rfl, rfl, by decide, hzero, rfl, by decide, rfl, rfl, rfl, rfl, hzero, rfl, rfl, rfl, rfl,
    rfl, rfl⟩

end Sys2Proof
end

section
/-! One byte of a keystream block (spec/20_memory.md R53, spec/42_block_function.md R133 to R135). -/

namespace Sys2Proof

open Sys2Proof.Machine

theorem add32_toNat (a b : Word) : (add32 a b).toNat = (a.toNat + b.toNat) % 2 ^ 32 := BitVec.toNat_ofNat _ 32

/-- Byte j of a word by division (R53). -/
theorem byteAt_toNat_div (v : Word) (j : Nat) : (byteAt v j).toNat = v.toNat / 2 ^ (8 * j) % 256 := by
  rw [byteAt_toNat, Nat.shiftRight_eq_div_pow]

/-- SERIALIZE by word and byte of the word (R134). -/
theorem serialize_byte (y : StateMatrix) {i j : Nat} (hi : i < 16) (hj : j < 4) :
    (serialize y)[4 * i + j] = byteAt y[i] j := by
  have hword : (4 * i + j) / 4 = i := by omega
  have hbyte : (4 * i + j) % 4 = j := by omega
  simp only [serialize_getElem, hword, hbyte]

/-- Settles O20: the byte of the serialised feed-forward of PERMUTE. -/
theorem blockBytes : Obligations.BlockBytes := by
  intro key nonce ctr i j hi hj m
  have hblock : ksBlock key nonce ctr = serialize (feedfwdFn (permute m) m) := ksBlock_eq key nonce ctr
  simp only [hblock, serialize_byte _ hi hj, byteAt_toNat_div, feedfwdFn_getElem, add32_toNat, permute_eq]

end Sys2Proof
end

section
/-! A load or a RESET issued twice (spec/20_memory.md R59). -/

namespace Sys2Proof

open Sys2Proof.Machine

/-- A load whose write is w, issued twice, passes the order of checks the same way both times, since w keeps SEQ and
FAULT: it waits, is answered Faulted, or writes again what stands there. -/
theorem load_twice {w : State → State} (hseq : ∀ s, (w s).seq = s.seq) (hfault : ∀ s, (w s).fault = s.fault)
    (htwice : ∀ s, w (respondOk [] (w s)) = respondOk [] (w s)) {s t u : State}
    (ht : whenOperational s (respondOk [] (w s)) = t) (hu : whenOperational t (respondOk [] (w t)) = u) :
    u = { t with rsp := u.rsp } := by
  rcases whenOperational_cases s (respondOk [] (w s)) with ⟨hb, h⟩ | ⟨hi, hf, h⟩ | ⟨hi, hf, h⟩
  · obtain rfl : s = t := h.symm.trans ht
    rw [← hu, whenOperational_busy _ hb]
  · obtain rfl : answerFaulted s = t := h.symm.trans ht
    rw [← hu, whenOperational_faulted (s := answerFaulted s) _ hi hf]
    rfl
  · obtain rfl : respondOk [] (w s) = t := h.symm.trans ht
    have hi' : (respondOk [] (w s)).seq = .idle := (hseq s).trans hi
    have hf' : (respondOk [] (w s)).fault = 0 := (hfault s).trans hf
    rw [← hu, whenOperational_accept _ hi' hf', htwice]
    rfl

/-- RESET issued twice waits twice or resets twice. -/
theorem doReset_twice (s : State) : doReset (doReset s) = { doReset s with rsp := (doReset (doReset s)).rsp } := by
  by_cases hi : s.seq = .idle
  · have h : doReset s = respondOk [] (resetCore s) := whenIdle_accept _ hi
    rw [h]
    rfl
  · have h : doReset s = s := whenIdle_busy _ hi
    rw [h, h]

/-- Settles O55: LOADKEY and LOADNONCE by load_twice, RESET by doReset_twice. -/
theorem loadsIdempotent : Obligations.LoadsIdempotent := by
  intro s t u
  refine ⟨fun k ht hu => ?_, fun n ht hu => ?_, fun ht hu => ?_⟩
  · exact load_twice (w := fun s => { s with key := keyWords k, keyv := true }) (fun _ => rfl) (fun _ => rfl)
      (fun _ => rfl) (Host.Outcome.next.inj ht) (Host.Outcome.next.inj hu)
  · exact load_twice (w := fun s => { s with nonce := nonceWords n, noncev := true }) (fun _ => rfl) (fun _ => rfl)
      (fun _ => rfl) (Host.Outcome.next.inj ht) (Host.Outcome.next.inj hu)
  · obtain rfl : doReset s = t := Host.Outcome.next.inj ht
    obtain rfl : doReset (doReset s) = u := Host.Outcome.next.inj hu
    exact doReset_twice s

end Sys2Proof
end

section
/-! The decoder by formats (spec/30_encoding.md R74 to R78): the opcode map as equations, and for each payload what is
read, what is consumed, and when the decoder waits. -/

namespace Sys2Proof

open Sys2Proof.Machine

/-! ## The opcode map -/

theorem decodeBytes_reset (tl : List Byte) : decodeBytes (0x01 :: tl) = .command .reset tl := rfl

theorem decodeBytes_status (tl : List Byte) : decodeBytes (0x02 :: tl) = .command .status tl := rfl

theorem decodeBytes_loadkey (tl : List Byte) : decodeBytes (0x10 :: tl) = decodeLoadkey tl := rfl

theorem decodeBytes_loadnonce (tl : List Byte) : decodeBytes (0x11 :: tl) = decodeLoadnonce tl := rfl

theorem decodeBytes_block (tl : List Byte) : decodeBytes (0x20 :: tl) = decodeBlock tl := rfl

theorem decodeBytes_process (tl : List Byte) : decodeBytes (0x21 :: tl) = decodeProcess tl := rfl

/-- The six opcodes (R76). -/
def opcodes : List Byte := [0x01, 0x02, 0x10, 0x11, 0x20, 0x21]

theorem opcode_cases (op : Byte) :
    op = 0x01 ∨ op = 0x02 ∨ op = 0x10 ∨ op = 0x11 ∨ op = 0x20 ∨ op = 0x21 ∨ op ∉ opcodes := by
  simp only [opcodes, List.mem_cons, List.not_mem_nil]
  tauto

theorem decodeBytes_illegal {op : Byte} (tl : List Byte) (h : op ∉ opcodes) :
    decodeBytes (op :: tl) = .illegal op tl := by
  simp only [opcodes, List.mem_cons, List.not_mem_nil, or_false, not_or] at h
  obtain ⟨h01, h02, h10, h11, h20, h21⟩ := h
  simp only [decodeBytes, h01, h02, h10, h11, h20, h21, if_false]

theorem commandLength_reset (tl : List Byte) : commandLength (0x01 :: tl) = 1 := rfl

theorem commandLength_status (tl : List Byte) : commandLength (0x02 :: tl) = 1 := rfl

theorem commandLength_process (tl : List Byte) :
    commandLength (0x21 :: tl) = 13 + leNat ((tl.drop 4).take 8) := rfl

theorem commandLength_illegal {op : Byte} (tl : List Byte) (h : op ∉ opcodes) : commandLength (op :: tl) = 1 := by
  simp only [opcodes, List.mem_cons, List.not_mem_nil, or_false, not_or] at h
  obtain ⟨-, -, h10, h11, h20, h21⟩ := h
  simp only [commandLength, h10, h11, h20, h21, if_false]

/-- LEN is a 64-bit field (R75). -/
theorem wellFormed_process_iff (ctr : Word) (data : List Byte) :
    (Instr.process ctr data).wellFormed = true ↔ data.length < 2 ^ 64 := decide_eq_true_iff

/-! ## Reading an encoded payload -/

theorem decodeLoadkey_append (k : Vector Byte 32) (rest : List Byte) :
    decodeLoadkey (k.toList ++ rest) = .command (.loadkey k) rest := by
  simp [decodeLoadkey, takeField_append]

theorem decodeLoadnonce_append (n : Vector Byte 12) (rest : List Byte) :
    decodeLoadnonce (n.toList ++ rest) = .command (.loadnonce n) rest := by
  simp [decodeLoadnonce, takeField_append]

theorem decodeBlock_append (ctr : Word) (rest : List Byte) :
    decodeBlock (bytes32 ctr ++ rest) = .command (.block ctr) rest := by
  simp only [bytes32, List.cons_append, List.nil_append, decodeBlock, le32_byteAt]

/-- PROCESS's fields read one after the other: the counter, then a LEN field of any eight bytes. -/
theorem decodeProcess_fields (ctr : Word) {len : List Byte} (hlen : len.length = 8) (rest : List Byte) :
    decodeProcess (bytes32 ctr ++ len ++ rest) =
      if leNat len ≤ rest.length then
        .command (.process ctr (rest.take (leNat len))) (rest.drop (leNat len))
      else .incomplete := by
  match len, hlen with
  | [l0, l1, l2, l3, l4, l5, l6, l7], _ =>
    simp only [bytes32, List.cons_append, List.nil_append, decodeProcess, le32_byteAt]

theorem decodeProcess_append (ctr : Word) {data : List Byte} (h : data.length < 2 ^ 64) (rest : List Byte) :
    decodeProcess (bytes32 ctr ++ leBytes 8 data.length ++ data ++ rest) = .command (.process ctr data) rest := by
  have hlen : leNat (leBytes 8 data.length) = data.length := leNat_leBytes 8 _ h
  rw [List.append_assoc _ data, decodeProcess_fields ctr (leBytes_length 8 _), hlen, if_pos (by simp)]
  simp

/-! ## A payload that has arrived, and one that has not -/

/-- Four bytes that have arrived are a counter field (R72). -/
theorem exists_bytes32_append {bs : List Byte} (h : 4 ≤ bs.length) : ∃ ctr rest, bs = bytes32 ctr ++ rest := by
  match bs, h with
  | c0 :: c1 :: c2 :: c3 :: rest, _ => exact ⟨le32 c0 c1 c2 c3, rest, by rw [bytes32_le32]; rfl⟩

/-- Twelve bytes that have arrived are PROCESS's two fields before the data (R75). -/
theorem exists_process_fields {bs : List Byte} (h : 12 ≤ bs.length) :
    ∃ ctr len rest, len.length = 8 ∧ bs = bytes32 ctr ++ len ++ rest := by
  obtain ⟨ctr, tl, rfl⟩ := exists_bytes32_append (show 4 ≤ bs.length by omega)
  have htl : 8 ≤ tl.length := by simpa [bytes32] using h
  exact ⟨ctr, tl.take 8, tl.drop 8, by simp [htl], by simp⟩

theorem decodeBlock_short {tl : List Byte} (h : tl.length < 4) : decodeBlock tl = .incomplete := by
  unfold decodeBlock
  split
  · simp only [List.length_cons] at h
    omega
  · rfl

theorem decodeProcess_short {tl : List Byte} (h : tl.length < 12) : decodeProcess tl = .incomplete := by
  unfold decodeProcess
  split
  · simp only [List.length_cons] at h
    omega
  · rfl

theorem commandLength_process_fields {ctr len : List Byte} (hctr : ctr.length = 4) (hlen : len.length = 8)
    (rest : List Byte) : commandLength (0x21 :: (ctr ++ len ++ rest)) = 13 + leNat len := by
  have hfield : ((ctr ++ len ++ rest).drop 4).take 8 = len := by
    rw [List.append_assoc, List.drop_left' hctr, List.take_left' hlen]
  rw [commandLength_process, hfield]

/-! ## When the decoder waits -/

theorem decodeLoadkey_incomplete_iff (tl : List Byte) : decodeLoadkey tl = .incomplete ↔ tl.length < 32 := by
  unfold decodeLoadkey
  split <;> simp <;> omega

theorem decodeLoadnonce_incomplete_iff (tl : List Byte) : decodeLoadnonce tl = .incomplete ↔ tl.length < 12 := by
  unfold decodeLoadnonce
  split <;> simp <;> omega

theorem decodeBlock_incomplete_iff (tl : List Byte) : decodeBlock tl = .incomplete ↔ tl.length < 4 := by
  by_cases h : tl.length < 4
  · simp only [decodeBlock_short h, h]
  · obtain ⟨ctr, rest, rfl⟩ := exists_bytes32_append (Nat.le_of_not_lt h)
    simp only [decodeBlock_append, h, reduceCtorEq]

theorem decodeProcess_incomplete_iff (tl : List Byte) :
    decodeProcess tl = .incomplete ↔ (0x21 :: tl).length < commandLength (0x21 :: tl) := by
  by_cases h : tl.length < 12
  · have hlong : (0x21 :: tl).length < commandLength (0x21 :: tl) := by
      rw [commandLength_process, List.length_cons]
      omega
    simp only [decodeProcess_short h, hlong]
  · obtain ⟨ctr, len, rest, hlen, rfl⟩ := exists_process_fields (Nat.le_of_not_lt h)
    have htotal : (0x21 :: (bytes32 ctr ++ len ++ rest)).length = 13 + rest.length := by
      simp [bytes32, hlen]
      omega
    rw [decodeProcess_fields ctr hlen, commandLength_process_fields rfl hlen, htotal]
    split <;> simp <;> omega

/-- The decoder waits exactly while fewer bytes have arrived than the format needs (R78). -/
theorem decodeBytes_incomplete_iff (bs : List Byte) : decodeBytes bs = .incomplete ↔ bs.length < commandLength bs := by
  cases bs with
  | nil => decide
  | cons op tl =>
    rcases opcode_cases op with rfl | rfl | rfl | rfl | rfl | rfl | h
    · rw [decodeBytes_reset, commandLength_reset]
      simp
    · rw [decodeBytes_status, commandLength_status]
      simp
    · rw [decodeBytes_loadkey, decodeLoadkey_incomplete_iff]
      exact (Nat.add_lt_add_iff_right (k := 1)).symm
    · rw [decodeBytes_loadnonce, decodeLoadnonce_incomplete_iff]
      exact (Nat.add_lt_add_iff_right (k := 1)).symm
    · rw [decodeBytes_block, decodeBlock_incomplete_iff]
      exact (Nat.add_lt_add_iff_right (k := 1)).symm
    · exact decodeProcess_incomplete_iff tl
    · simp [decodeBytes_illegal tl h, commandLength_illegal tl h]

/-! ## No payload is illegal -/

theorem decodeLoadkey_ne_illegal {tl rest : List Byte} {op : Byte} : decodeLoadkey tl ≠ .illegal op rest := by
  unfold decodeLoadkey
  split <;> simp

theorem decodeLoadnonce_ne_illegal {tl rest : List Byte} {op : Byte} : decodeLoadnonce tl ≠ .illegal op rest := by
  unfold decodeLoadnonce
  split <;> simp

theorem decodeBlock_ne_illegal {tl rest : List Byte} {op : Byte} : decodeBlock tl ≠ .illegal op rest := by
  unfold decodeBlock
  split <;> simp

theorem decodeProcess_ne_illegal {tl rest : List Byte} {op : Byte} : decodeProcess tl ≠ .illegal op rest := by
  unfold decodeProcess
  split
  · dsimp only
    split <;> simp
  · simp

/-! ## What a command that was read consumed -/

theorem decodeLoadkey_consumed {tl rest : List Byte} {i : Instr} (h : decodeLoadkey tl = .command i rest) :
    ∃ k, i = .loadkey k ∧ tl = k.toList ++ rest := by
  unfold decodeLoadkey at h
  split at h <;> cases h
  exact ⟨_, rfl, (List.take_append_drop 32 tl).symm⟩

theorem decodeLoadnonce_consumed {tl rest : List Byte} {i : Instr} (h : decodeLoadnonce tl = .command i rest) :
    ∃ n, i = .loadnonce n ∧ tl = n.toList ++ rest := by
  unfold decodeLoadnonce at h
  split at h <;> cases h
  exact ⟨_, rfl, (List.take_append_drop 12 tl).symm⟩

theorem decodeBlock_consumed {tl rest : List Byte} {i : Instr} (h : decodeBlock tl = .command i rest) :
    ∃ ctr, i = .block ctr ∧ tl = bytes32 ctr ++ rest := by
  by_cases hs : tl.length < 4
  · exact nomatch (decodeBlock_short hs).symm.trans h
  · obtain ⟨ctr, tl, rfl⟩ := exists_bytes32_append (Nat.le_of_not_lt hs)
    cases (decodeBlock_append ctr tl).symm.trans h
    exact ⟨ctr, rfl, rfl⟩

theorem decodeProcess_consumed {tl rest : List Byte} {i : Instr} (h : decodeProcess tl = .command i rest) :
    ∃ ctr data, i = .process ctr data ∧ data.length < 2 ^ 64 ∧
      tl = bytes32 ctr ++ leBytes 8 data.length ++ data ++ rest := by
  by_cases hs : tl.length < 12
  · exact nomatch (decodeProcess_short hs).symm.trans h
  · obtain ⟨ctr, len, tl, hlen, rfl⟩ := exists_process_fields (Nat.le_of_not_lt hs)
    rw [decodeProcess_fields ctr hlen] at h
    split at h <;> cases h
    have hdata : (tl.take (leNat len)).length = leNat len := List.length_take_of_le ‹_›
    have hbytes : leBytes 8 (leNat len) = len := hlen ▸ leBytes_leNat len
    have hbound : leNat len < 256 ^ 8 := hlen ▸ leNat_lt len
    refine ⟨ctr, _, rfl, hdata.trans_lt hbound, ?_⟩
    rw [hdata, hbytes, List.append_assoc _ (tl.take _), List.take_append_drop]

/-- The bytes a command was read from are its encoding and what follows (R75, R76). -/
theorem encode_of_decodeBytes {bs rest : List Byte} {i : Instr} (h : decodeBytes bs = .command i rest) :
    i.wellFormed = true ∧ ∃ consumed, encode i = .bytes consumed ∧ bs = consumed ++ rest := by
  cases bs with
  | nil => cases h
  | cons op tl =>
    rcases opcode_cases op with rfl | rfl | rfl | rfl | rfl | rfl | hop
    · cases h
      exact ⟨rfl, _, rfl, rfl⟩
    · cases h
      exact ⟨rfl, _, rfl, rfl⟩
    · obtain ⟨k, rfl, rfl⟩ := decodeLoadkey_consumed h
      exact ⟨rfl, _, rfl, rfl⟩
    · obtain ⟨n, rfl, rfl⟩ := decodeLoadnonce_consumed h
      exact ⟨rfl, _, rfl, rfl⟩
    · obtain ⟨ctr, rfl, rfl⟩ := decodeBlock_consumed h
      exact ⟨rfl, _, rfl, rfl⟩
    · obtain ⟨ctr, data, rfl, hlen, rfl⟩ := decodeProcess_consumed h
      exact ⟨(wellFormed_process_iff ctr data).mpr hlen, _, rfl, rfl⟩
    · exact nomatch (decodeBytes_illegal tl hop).symm.trans h

/-- The length is read from the command's own bytes: those that follow do not change it (R84). -/
theorem commandLength_append {bs : List Byte} (h : bs.length = commandLength bs) (rest : List Byte) :
    commandLength (bs ++ rest) = bs.length := by
  rw [h]
  cases bs with
  | nil => cases h
  | cons op tl =>
    by_cases hop : op = 0x21
    · subst hop
      have hlen : 12 ≤ tl.length := by
        rw [commandLength_process, List.length_cons] at h
        omega
      obtain ⟨ctr, len, tl, h8, rfl⟩ := exists_process_fields hlen
      rw [List.cons_append, List.append_assoc, commandLength_process_fields rfl h8,
        commandLength_process_fields rfl h8]
    · simp only [List.cons_append, commandLength, hop, if_false]

/-- A command that was read consumed the length of its format (R84). -/
theorem rest_of_decodeBytes {bs rest : List Byte} {i : Instr} (h : decodeBytes bs = .command i rest) :
    rest = bs.drop (commandLength bs) := by
  obtain ⟨hw, consumed, he, rfl⟩ := encode_of_decodeBytes h
  have hs : Laws.EncodedLength.Statement i := by
    rcases decodeBytes_command_cases h with rfl | rfl | ⟨k, rfl⟩ | ⟨n, rfl⟩ | ⟨ctr, rfl⟩ | ⟨ctr, data, rfl⟩
    · exact Laws.EncodedLength.reset
    · exact Laws.EncodedLength.status
    · exact Laws.EncodedLength.loadkey k
    · exact Laws.EncodedLength.loadnonce n
    · exact Laws.EncodedLength.block ctr
    · exact Laws.EncodedLength.process ctr data
  have hlen : consumed.length = commandLength consumed := by
    have hmatch := hs hw
    rwa [he] at hmatch
  rw [commandLength_append hlen, List.drop_left]

end Sys2Proof
end

section
/-! The converse of the SEQ decoder (spec/10_state.md R30, spec/30_encoding.md R80): a value that selects a
micro-operation is the value of its position. -/

namespace Sys2Proof

/-- A value whose PHASE is ROUND is the one written from its ITER and SLOT fields. -/
theorem round_fields_eq {w : BitVec 10} (h : w &&& 0x380 = 0x100) :
    2#3 ++ w.extractLsb' 3 4 ++ w.extractLsb' 0 3 = w := by
  have hmask : (0x380 : BitVec 10).extractLsb' 7 3 = BitVec.allOnes 3 := by decide
  have hphase : w.extractLsb' 7 3 = 2#3 := by
    have hfield := congrArg (BitVec.extractLsb' 7 3) h
    rwa [BitVec.extractLsb'_and, hmask, BitVec.and_allOnes] at hfield
  rw [← hphase, BitVec.extractLsb'_append_extractLsb'_eq_extractLsb' (by decide),
    BitVec.extractLsb'_append_extractLsb'_eq_extractLsb' (by decide)]
  exact BitVec.extractLsb'_eq_self

/-- A value that selects a micro-operation is the value of a position that executes it. -/
theorem position_of_decodeSeq {w : BitVec 10} {i : Instr} (h : decodeSeq w = .micro i) :
    ∃ q, seqWord q = w ∧ microOf q = some i := by
  simp only [decodeSeq] at h
  split_ifs at h with hidle hinject hround hiter hfeedfwd hemit hxorchunk
  · cases h
    exact ⟨.inject, hinject.symm, rfl⟩
  · cases h
    refine ⟨.round ⟨_, hiter⟩ ⟨_, (w.extractLsb' 0 3).isLt⟩, ?_, rfl⟩
    simpa only [seqWord, BitVec.ofNat_toNat, BitVec.setWidth_eq] using round_fields_eq hround
  · cases h
    exact ⟨.feedfwd, hfeedfwd.symm, rfl⟩
  · cases h
    exact ⟨.emit, hemit.symm, rfl⟩
  · cases h
    exact ⟨.xorchunk, hxorchunk.symm, rfl⟩

/-- IDLE is read from its own value only. -/
theorem seqWord_idle_of_decodeSeq {w : BitVec 10} (h : decodeSeq w = .idle) : seqWord .idle = w := by
  simp only [decodeSeq] at h
  split_ifs at h with hidle
  exact hidle.symm

/-- The micro-operation of a position is encoded as the position's value, whatever its operand. -/
theorem encode_of_microOf {q : Seq} {i : Instr} (h : microOf q = some i) :
    i.wellFormed = true ∧ encode i = .seq (seqWord q) := by
  cases q with
  | idle => cases h
  | round t n =>
    cases h
    fin_cases n <;> exact ⟨rfl, rfl⟩
  | inject | feedfwd | emit | xorchunk =>
    cases h
    exact ⟨rfl, rfl⟩

end Sys2Proof
end

section
/-! Encodings and steps: the statements of spec/30_encoding.md R74 to R80. -/

namespace Sys2Proof

open Sys2Proof.Machine

/-- Settles O1: by instruction; the commands by their payload, the micro-operations by their position. -/
theorem decodeOfEncode : Obligations.DecodeOfEncode := by
  intro i hw
  obtain ⟨hposition, -⟩ := seqSelects
  cases i with
  | reset => exact decodeBytes_reset
  | status => exact decodeBytes_status
  | loadkey k => exact fun rest => (decodeBytes_loadkey _).trans (decodeLoadkey_append k rest)
  | loadnonce n => exact fun rest => (decodeBytes_loadnonce _).trans (decodeLoadnonce_append n rest)
  | block ctr => exact fun rest => (decodeBytes_block _).trans (decodeBlock_append ctr rest)
  | process ctr data =>
    have hlen : data.length < 2 ^ 64 := (wellFormed_process_iff ctr data).mp hw
    exact fun rest => (decodeBytes_process _).trans (decodeProcess_append ctr hlen rest)
  | inject => exact hposition .inject
  | qr0 t => exact hposition (.round t 0)
  | qr1 t => exact hposition (.round t 1)
  | qr2 t => exact hposition (.round t 2)
  | qr3 t => exact hposition (.round t 3)
  | qr4 t => exact hposition (.round t 4)
  | qr5 t => exact hposition (.round t 5)
  | qr6 t => exact hposition (.round t 6)
  | qr7 t => exact hposition (.round t 7)
  | feedfwd => exact hposition .feedfwd
  | emit => exact hposition .emit
  | xorchunk => exact hposition .xorchunk

/-- Settles O2: command bytes by payload, a SEQ value by the position it is the value of. -/
theorem encodeOfDecode : Obligations.EncodeOfDecode := by
  refine ⟨fun bs i rest h => encode_of_decodeBytes h, fun w i h => ?_⟩
  obtain ⟨q, rfl, hq⟩ := position_of_decodeSeq h
  exact encode_of_microOf hq

/-- Settles O3. -/
theorem decodeByLength : Obligations.DecodeByLength :=
  ⟨decodeBytes_incomplete_iff, fun _ _ _ h => rest_of_decodeBytes h, fun _ => ⟨rfl, rfl, rfl, rfl, rfl⟩,
    fun _ _ data hctr hlen => commandLength_process_fields hctr hlen data⟩

/-- Settles O4: by opcode; no payload reader answers illegal. -/
theorem illegalOpcodes : Obligations.IllegalOpcodes := by
  refine fun op tl => ⟨decodeBytes_illegal tl, fun hop o r h => ?_⟩
  rcases opcode_cases op with rfl | rfl | rfl | rfl | rfl | rfl | hnot
  · cases h
  · cases h
  · exact decodeLoadkey_ne_illegal h
  · exact decodeLoadnonce_ne_illegal h
  · exact decodeBlock_ne_illegal h
  · exact decodeProcess_ne_illegal h
  · exact hnot hop

/-- Settles O6: the value of a position is answered by its micro-operation or by IDLE, and whatever is so answered is
the value of a position. -/
theorem seqUnreachable : Obligations.SeqUnreachable := by
  intro w
  constructor
  · rintro ⟨v, h⟩ q rfl
    rw [seqSelects.1 q] at h
    split at h <;> cases h
  · intro h
    cases hd : decodeSeq w with
    | unreachable v => exact ⟨v, rfl⟩
    | idle => exact absurd (seqWord_idle_of_decodeSeq hd) (h .idle)
    | micro i =>
      obtain ⟨q, hq, -⟩ := position_of_decodeSeq hd
      exact absurd hq (h q)

/-- Settles O7: the ten words, evaluated. -/
theorem decodeWords : Obligations.DecodeWords := by
  unfold Obligations.DecodeWords
  decide

/-- Settles O8: in IDLE by the command stream, elsewhere by the position's micro-operation. -/
theorem stepRunsDecoded : Obligations.StepRunsDecoded := by
  refine ⟨fun s i rest hr hq hd _ => step_command hr hq hd, fun s i hr hd => step_micro hr ?_⟩
  rw [seqSelects.1 s.seq] at hd
  split at hd <;> cases hd
  assumption

/-- Settles O9. -/
theorem stepWaits : Obligations.StepWaits := fun s hr hq hlen =>
  step_incomplete hr hq ((decodeBytes_incomplete_iff s.cmd).mpr hlen)

end Sys2Proof
end

section
/-! Every response is whole (spec/20_memory.md R58, spec/30_encoding.md R79). -/

namespace Sys2Proof

open Sys2Proof.Machine

/-- From s to t one whole response was sent: 0x00 and a payload, or one fault byte alone (R79). -/
def Responded (s t : State) : Prop :=
  t.seq = .idle ∧ ((∃ payload, t.rsp = s.rsp ++ 0x00 :: payload) ∨
    ∃ b ∈ [(0x81 : Byte), 0x82, 0x83, 0x8f], t.rsp = s.rsp ++ [b])

theorem rspFault_mem {code : BitVec 4} (h0 : code ≠ 0) (h3 : code.toNat ≤ 3) :
    rspFault code ∈ [(0x81 : Byte), 0x82, 0x83, 0x8f] := by
  revert code
  decide

theorem IdleStep.silent_or_responded {s t : State} (hi : s.seq = .idle) (hs : IdleStep s t) :
    t.rsp = s.rsp ∨ Responded s t := by
  cases hs with
  | hardwareReset | waits | block | process => exact .inl rfl
  | reset => exact .inr ⟨rfl, .inl ⟨_, rfl⟩⟩
  | status | loadkey | loadnonce | processEmpty => exact .inr ⟨hi, .inl ⟨_, rfl⟩⟩
  | refused => exact .inr ⟨hi, .inr ⟨rspFault codeFaulted, by decide, rfl⟩⟩
  | faults rest code _ hc hc3 => exact .inr ⟨rfl, .inr ⟨_, rspFault_mem hc hc3, rfl⟩⟩

/-- EMIT answers a BLOCK command and is silent in PROCESS (R142). -/
theorem doEmit_silent_or_responded (s : State) : (doEmit s).rsp = s.rsp ∨ Responded s (doEmit s) := by
  cases hm : s.mode with
  | block => exact doEmit_block hm ▸ .inr ⟨rfl, .inl ⟨_, rfl⟩⟩
  | process => exact doEmit_process hm ▸ .inl rfl

/-- XORCHUNK answers with the last chunk and is silent before it (R161). -/
theorem doXorchunk_silent_or_responded (s : State) : (doXorchunk s).rsp = s.rsp ∨ Responded s (doXorchunk s) := by
  by_cases hn : (nextChunk s.ci).toNat < s.nchunks.toNat
  · exact doXorchunk_next hn ▸ .inl rfl
  · exact doXorchunk_last hn ▸ .inr ⟨rfl, .inl ⟨_, rfl⟩⟩

/-- Settles O54: an idle CORE by the ways of IdleStep, a busy one by its micro-operation. -/
theorem responsesWhole : Obligations.ResponsesWhole := by
  intro s t h
  show t.rsp = s.rsp ∨ Responded s t
  by_cases hi : s.seq = .idle
  · exact (idleStep_of_step hi h).silent_or_responded hi
  · rcases step_busy_cases hi h with ⟨-, rfl⟩ | ⟨-, -, rfl⟩ | ⟨iter, slot, -, -, rfl⟩ | ⟨-, -, rfl⟩ | ⟨-, -, rfl⟩ |
      ⟨-, -, rfl⟩
    · exact .inl (hardwareReset_rsp s)
    · exact .inl (doInject_rsp s)
    · exact .inl (qrStep_rsp slot iter s)
    · exact .inl (doFeedfwd_rsp s)
    · exact doEmit_silent_or_responded s
    · exact doXorchunk_silent_or_responded s

end Sys2Proof
end

section
/-! The three word operations and their inverses (spec/40_word_ops.md R100 to R104). A rotation is read by its bits
(R102), and whatever is claimed of it follows from that one reading. -/

namespace Sys2Proof

open Sys2Proof.Machine

/-! ## ADD32 and XOR32 -/

theorem add32_eq_add (a b : Word) : add32 a b = a + b := BitVec.eq_of_toNat_eq (add32_toNat a b)

theorem sub32_eq_sub (a b : Word) : sub32 a b = a - b := by
  have hb : b.toNat < 2 ^ 32 := b.isLt
  apply BitVec.eq_of_toNat_eq
  rw [sub32, BitVec.toNat_ofNat, BitVec.toNat_sub]
  congr 1
  omega

@[simp] theorem sub32_add32 (a b : Word) : sub32 (add32 a b) b = a := by
  rw [sub32_eq_sub, add32_eq_add, BitVec.add_sub_cancel]

@[simp] theorem add32_sub32 (a b : Word) : add32 (sub32 a b) b = a := by
  rw [add32_eq_add, sub32_eq_sub, BitVec.sub_add_cancel]

@[simp] theorem xor32_xor32 (a b : Word) : xor32 (xor32 a b) b = a := by
  rw [xor32, xor32, BitVec.xor_assoc, BitVec.xor_self, BitVec.xor_zero]

/-! ## ROTL32 -/

/-- The integer formula of R102: the right half is below 2^32, so reducing the left half alone reduces both. -/
theorem rotl32_toNat (x : Word) (n : Nat) :
    (rotl32 x n).toNat = ((x.toNat <<< n) ||| (x.toNat >>> (32 - n))) % 2 ^ 32 := by
  have hright : x.toNat >>> (32 - n) < 2 ^ 32 := (x >>> (32 - n)).isLt
  rw [rotl32, BitVec.toNat_or, BitVec.toNat_shiftLeft, BitVec.toNat_ushiftRight, Nat.or_mod_two_pow,
    Nat.mod_eq_of_lt hright]

/-- The right half of a rotation by n has no bit from n on. -/
theorem getLsbD_ushiftRight_of_ge (x : Word) {n i : Nat} (h : n ≤ i) : (x >>> (32 - n)).getLsbD i = false := by
  rw [BitVec.getLsbD_ushiftRight]
  exact BitVec.getLsbD_of_ge _ _ (by omega)

/-- The bit form of R102, read at the bit of the result: below n it is the right half's, from n on the left half's. -/
theorem rotl32_getLsbD (x : Word) {n i : Nat} (hn : n ≤ 32) (hi : i < 32) :
    (rotl32 x n).getLsbD i = x.getLsbD ((i + (32 - n)) % 32) := by
  rw [rotl32, BitVec.getLsbD_or, BitVec.getLsbD_shiftLeft]
  by_cases h : i < n
  · have hfrom : (i + (32 - n)) % 32 = 32 - n + i := by omega
    simp [h, hfrom]
  · have hfrom : (i + (32 - n)) % 32 = i - n := by omega
    rw [getLsbD_ushiftRight_of_ge x (Nat.le_of_not_lt h), hfrom]
    simp [h, hi]

/-- The bit form as R102 writes it, read at the bit of the operand. -/
theorem rotl32_getLsbD_add (x : Word) {n i : Nat} (hn : n ≤ 32) (hi : i < 32) :
    (rotl32 x n).getLsbD ((i + n) % 32) = x.getLsbD i := by
  have hback : ((i + n) % 32 + (32 - n)) % 32 = i := by omega
  rw [rotl32_getLsbD x hn (Nat.mod_lt _ (by decide)), hback]

/-- Two rotations by 32 places together are none. -/
theorem rotl32_rotl32 (x : Word) {n m : Nat} (h : n + m = 32) : rotl32 (rotl32 x n) m = x := by
  apply BitVec.eq_of_getLsbD_eq
  intro i hi
  have hback : ((i + (32 - m)) % 32 + (32 - n)) % 32 = i := by omega
  rw [rotl32_getLsbD _ (by omega) hi, rotl32_getLsbD _ (by omega) (Nat.mod_lt _ (by decide)), hback]

/-- A word with one bit set: the bit moves. -/
theorem rotl32_twoPow {k n : Nat} (hk : k < 32) (hn : n ≤ 32) :
    rotl32 (BitVec.twoPow 32 k) n = BitVec.twoPow 32 ((k + n) % 32) := by
  apply BitVec.eq_of_getLsbD_eq
  intro i hi
  have hmoved : k = (i + (32 - n)) % 32 ↔ (k + n) % 32 = i := by omega
  have hto : (k + n) % 32 < 32 := Nat.mod_lt _ (by decide)
  simp only [rotl32_getLsbD _ hn hi, BitVec.getLsbD_twoPow, hk, hto, hmoved]

theorem rotl32_twoPow_toNat {k n m : Nat} (hk : k < 32) (hn : n ≤ 32) (hm : (k + n) % 32 = m) :
    (rotl32 (BitVec.twoPow 32 k) n).toNat = 2 ^ m := by
  subst hm
  rw [rotl32_twoPow hk hn, BitVec.toNat_twoPow_of_lt (Nat.mod_lt _ (by decide))]

theorem rotl32_zero (n : Nat) : rotl32 0 n = 0 := by
  simp [rotl32]

theorem rotl32_allOnes {n : Nat} (hn : n ≤ 32) : rotl32 (BitVec.allOnes 32) n = BitVec.allOnes 32 := by
  apply BitVec.eq_of_getLsbD_eq
  intro i hi
  have hfrom : (i + (32 - n)) % 32 < 32 := Nat.mod_lt _ (by decide)
  simp only [rotl32_getLsbD _ hn hi, BitVec.getLsbD_allOnes, hi, hfrom]

/-- The two halves are disjoint: the left one has no bit below n, the right one none from n on. -/
theorem shiftLeft_and_ushiftRight_eq_zero (x : Word) (n : Nat) : (x <<< n) &&& (x >>> (32 - n)) = 0 := by
  apply BitVec.eq_of_getLsbD_eq
  intro i hi
  rw [BitVec.getLsbD_and, BitVec.getLsbD_shiftLeft]
  by_cases h : i < n
  · simp [h]
  · rw [getLsbD_ushiftRight_of_ge x (Nat.le_of_not_lt h)]
    simp

/-- Settles O13: the corner cases are the word without a bit, the full word, and the two words with one bit. -/
theorem rotlBits : Obligations.RotlBits := by
  intro x n h1 h31
  have hn : n ≤ 32 := by omega
  exact ⟨rotl32_toNat x n, fun i hi => rotl32_getLsbD_add x hn hi, rotl32_zero n, rotl32_allOnes hn,
    rotl32_twoPow_toNat (k := 31) (by decide) hn (by omega), rotl32_twoPow_toNat (k := 0) (by decide) hn (by omega),
    shiftLeft_and_ushiftRight_eq_zero x n⟩

/-- Settles O14: the rotations by n and by 32 - n make 32 places together, in either order. -/
theorem wordInverses : Obligations.WordInverses :=
  ⟨fun a b => ⟨sub32_add32 a b, add32_sub32 a b⟩, xor32_xor32,
    fun x n _ h31 => ⟨rotl32_rotl32 x (by omega), rotl32_rotl32 x (by omega)⟩⟩

end Sys2Proof
end

section
/-! The quarter-round, its inverse and the rounds (spec/41_quarter_round.md R110 to R125). A quarter-round on a matrix
reads and writes the words of its group only, and whatever is claimed of a round follows from that. -/

namespace Sys2Proof

open Sys2Proof.Machine

/-! ## QR and its inverse -/

theorem qrInverse_qr (a b c d : Word) :
    qrInverse (qr a b c d).1 (qr a b c d).2.1 (qr a b c d).2.2.1 (qr a b c d).2.2.2 = (a, b, c, d) := by
  simp only [qr, qrInverse, sub32_add32, xor32_xor32, rotl32_rotl32 _ (show 7 + 25 = 32 from rfl),
    rotl32_rotl32 _ (show 8 + 24 = 32 from rfl), rotl32_rotl32 _ (show 12 + 20 = 32 from rfl),
    rotl32_rotl32 _ (show 16 + 16 = 32 from rfl)]

theorem qr_qrInverse (a b c d : Word) :
    qr (qrInverse a b c d).1 (qrInverse a b c d).2.1 (qrInverse a b c d).2.2.1 (qrInverse a b c d).2.2.2 =
      (a, b, c, d) := by
  simp only [qr, qrInverse, add32_sub32, xor32_xor32, rotl32_rotl32 _ (show 25 + 7 = 32 from rfl),
    rotl32_rotl32 _ (show 24 + 8 = 32 from rfl), rotl32_rotl32 _ (show 20 + 12 = 32 from rfl),
    rotl32_rotl32 _ (show 16 + 16 = 32 from rfl)]

/-- Settles O15: the inner assignments meet their inverses first, the outer ones last. (The name stands under
QuarterRound because qrInverse is the model's function.) -/
theorem QuarterRound.qrInverse : Obligations.QrInverse := fun a b c d =>
  ⟨qrInverse_qr a b c d, qr_qrInverse a b c d⟩

/-! ## QRX by its group -/

/-- The four indices a quarter-round reads and writes (R112). -/
def Machine.Group.indices (g : Group) : List (Fin 16) := [g.ia, g.ib, g.ic, g.id]

theorem Machine.Group.mem_indices {g : Group} {i : Fin 16} :
    i ∈ g.indices ↔ i = g.ia ∨ i = g.ib ∨ i = g.ic ∨ i = g.id := by
  simp [Group.indices]

/-- QRX writes the words of its group only. -/
theorem qrx_of_notMem {g : Group} {i : Fin 16} (hi : i ∉ g.indices) (m : StateMatrix) : (qrx m g)[i] = m[i] := by
  simp only [Group.mem_indices, not_or] at hi
  obtain ⟨ha, hb, hc, hd⟩ := hi
  exact qrx_other m g i i.isLt (Fin.val_ne_of_ne (Ne.symm ha)) (Fin.val_ne_of_ne (Ne.symm hb))
    (Fin.val_ne_of_ne (Ne.symm hc)) (Fin.val_ne_of_ne (Ne.symm hd))

/-- QRX reads the words of its group only. -/
theorem qrx_congr {g : Group} {m m' : StateMatrix} (h : ∀ j ∈ g.indices, m[j] = m'[j]) {i : Fin 16}
    (hi : i ∈ g.indices) : (qrx m g)[i] = (qrx m' g)[i] := by
  have ha : m[g.ia] = m'[g.ia] := h _ (by simp [Group.mem_indices])
  have hb : m[g.ib] = m'[g.ib] := h _ (by simp [Group.mem_indices])
  have hc : m[g.ic] = m'[g.ic] := h _ (by simp [Group.mem_indices])
  have hd : m[g.id] = m'[g.id] := h _ (by simp [Group.mem_indices])
  have hword : m[i.val] = m'[i.val] := h i hi
  simp only [Fin.getElem_fin, qrx_getElem, hword] at ha hb hc hd ⊢
  rw [ha, hb, hc, hd]

/-- Settles O16. -/
theorem qrxWords : Obligations.QrxWords := by
  intro m g hg
  refine ⟨?_, fun i hi => qrx_of_notMem hi m⟩
  simp only [List.nodup_cons, List.mem_cons, List.not_mem_nil, or_false, not_or] at hg
  obtain ⟨⟨hab, hac, had⟩, ⟨hbc, hbd⟩, hcd, -⟩ := hg
  simp [qrx_getElem, Fin.val_inj, Ne.symm hab, Ne.symm hac, Ne.symm had, Ne.symm hbc, Ne.symm hbd, Ne.symm hcd]

/-- Quarter-rounds on disjoint groups commute (R125): a word of either group is written by that one, from words the
other leaves as they are, and any other word by neither. -/
theorem qrx_comm {g h : Group} (hgh : g.indices.Disjoint h.indices) (m : StateMatrix) :
    qrx (qrx m g) h = qrx (qrx m h) g := by
  apply Vector.ext
  intro k hk
  change (qrx (qrx m g) h)[(⟨k, hk⟩ : Fin 16)] = (qrx (qrx m h) g)[(⟨k, hk⟩ : Fin 16)]
  by_cases hg : ⟨k, hk⟩ ∈ g.indices
  · rw [qrx_of_notMem (hgh hg)]
    exact qrx_congr (fun j hj => (qrx_of_notMem (hgh hj) m).symm) hg
  · rw [qrx_of_notMem hg]
    by_cases hh : ⟨k, hk⟩ ∈ h.indices
    · exact qrx_congr (fun j hj => qrx_of_notMem (hgh.symm hj) m) hh
    · rw [qrx_of_notMem hh, qrx_of_notMem hg, qrx_of_notMem hh]

/-! ## The four slots of a round, in any order -/

/-- The groups of two slots of one round have no index in common (R113). -/
theorem slotGroup_disjoint {n k : Fin 8} (hhalf : n.val / 4 = k.val / 4) (hnk : n ≠ k) :
    (slotGroup n).indices.Disjoint (slotGroup k).indices := by
  have hall : ∀ n k : Fin 8, n.val / 4 = k.val / 4 → n ≠ k →
      ∀ i ∈ (slotGroup n).indices, i ∉ (slotGroup k).indices := by decide
  exact fun i => hall n k hhalf hnk i

theorem qrSlot_comm {n k : Fin 8} (hhalf : n.val / 4 = k.val / 4) (m : StateMatrix) :
    qrSlot k (qrSlot n m) = qrSlot n (qrSlot k m) := by
  by_cases hnk : n = k
  · rw [hnk]
  · exact qrx_comm (slotGroup_disjoint hhalf hnk) m

/-- The quarter-rounds of a list of slots, one after another. -/
def qrSlots (order : List (Fin 8)) (m : StateMatrix) : StateMatrix := order.foldl (fun m n => qrSlot n m) m

/-- A list of slots of one round: all below 4, or all from 4 on. -/
def OneRound (order : List (Fin 8)) : Prop := ∀ n ∈ order, ∀ k ∈ order, n.val / 4 = k.val / 4

theorem qrSlots_perm {order order' : List (Fin 8)} (hround : OneRound order') (h : order.Perm order')
    (m : StateMatrix) : qrSlots order m = qrSlots order' m :=
  h.foldl_eq' (fun n hn k hk m => qrSlot_comm (hround n (h.mem_iff.mp hn) k (h.mem_iff.mp hk)) m) m

/-- A word outside the groups of all slots is left. -/
theorem qrSlots_of_notMem {i : Fin 16} {order : List (Fin 8)} (hi : ∀ k ∈ order, i ∉ (slotGroup k).indices)
    (m : StateMatrix) : (qrSlots order m)[i] = m[i] := by
  induction order generalizing m with
  | nil => rfl
  | cons k rest ih =>
    obtain ⟨hk, hrest⟩ := List.forall_mem_cons.mp hi
    calc (qrSlots rest (qrSlot k m))[i] = (qrSlot k m)[i] := ih hrest _
      _ = m[i] := qrx_of_notMem hk m

/-- A word of slot n is what the quarter-round of slot n alone gives (R125): n may as well come first, and the slots
behind it leave the word. -/
theorem qrSlots_word {order : List (Fin 8)} (hround : OneRound order) (hnodup : order.Nodup) {n : Fin 8}
    (hn : n ∈ order) {i : Fin 16} (hi : i ∈ (slotGroup n).indices) (m : StateMatrix) :
    (qrSlots order m)[i] = (qrSlot n m)[i] := by
  have hfirst : qrSlots order m = qrSlots (order.erase n) (qrSlot n m) :=
    (qrSlots_perm hround (List.perm_cons_erase hn).symm m).symm
  rw [hfirst]
  refine qrSlots_of_notMem (fun k hk => ?_) _
  obtain ⟨hkn, hk⟩ := hnodup.mem_erase_iff.mp hk
  exact slotGroup_disjoint (hround n hn k hk) (Ne.symm hkn) hi

theorem oneRound_columns : OneRound [0, 1, 2, 3] := by unfold OneRound; decide

theorem oneRound_diagonals : OneRound [4, 5, 6, 7] := by unfold OneRound; decide

theorem mem_columns {n : Fin 8} (h : n.val < 4) : n ∈ [(0 : Fin 8), 1, 2, 3] := by
  revert n
  decide

theorem mem_diagonals {n : Fin 8} (h : 4 ≤ n.val) : n ∈ [(4 : Fin 8), 5, 6, 7] := by
  revert n
  decide

/-- Settles O17: COLROUND and DIAGROUND are the quarter-rounds of their four slots, whose groups are disjoint. -/
theorem roundOrderFree : Obligations.RoundOrderFree := fun m =>
  ⟨fun _ h => qrSlots_perm oneRound_columns h m, fun _ h => qrSlots_perm oneRound_diagonals h m,
    fun _ hn _ hi => qrSlots_word oneRound_columns (by decide) (mem_columns hn) hi m,
    fun _ hn _ hi => qrSlots_word oneRound_diagonals (by decide) (mem_diagonals hn) hi m⟩

/-! ## The micro-operations QR0 to QR7 -/

/-- A quarter-round before the last slot: the next slot of the same iteration is next (R140). -/
theorem exec_slotInstr_slot (iter : Fin 10) (slot : Fin 8) (s : State) (h : slot.val + 1 < 8) :
    exec (slotInstr iter slot) s =
      .next { s with x := qrx s.x (slotGroup slot), seq := .round iter ⟨slot.val + 1, h⟩ } := by
  rw [exec_slotInstr, qrStep, qrAdvance_slot iter slot h, qrSlot]

/-- Settles O35: one operation at its slot, with the three advances of R140. -/
theorem quarterRoundsComplete : Obligations.QuarterRoundsComplete := by
  refine ⟨fun t s => exec_slotInstr_slot t 0 s (by decide), fun t s => exec_slotInstr_slot t 1 s (by decide),
    fun t s => exec_slotInstr_slot t 2 s (by decide), fun t s => exec_slotInstr_slot t 3 s (by decide),
    fun t s => exec_slotInstr_slot t 4 s (by decide), fun t s => exec_slotInstr_slot t 5 s (by decide),
    fun t s => exec_slotInstr_slot t 6 s (by decide), fun t t' s ht => ?_, fun s => exec_slotInstr 9 7 s⟩
  have hlt : t.val + 1 < 10 := ht ▸ t'.isLt
  obtain rfl : t' = ⟨t.val + 1, hlt⟩ := Fin.ext ht
  rw [← qrAdvance_iter t hlt]
  exact exec_slotInstr t 7 s

end Sys2Proof
end

section
/-! What the sequencer position says of the data is kept by every step (spec/42_block_function.md R143,
spec/43_stream.md R161). An idle CORE has nothing to say; a busy one goes from one position's clause to the next's. -/

namespace Sys2Proof

open Sys2Proof.Machine

/-- The clause of Tracks that belongs to a position: what X or KS holds there (R143). -/
def DataAt (s : State) : Seq → Prop
  | .idle | .inject => True
  | .round t n => s.x = slotsUpTo n.val (doubleRounds t.val (initOf s))
  | .feedfwd => s.x = permute (initOf s)
  | .emit => s.x = feedfwdFn (permute (initOf s)) (initOf s)
  | .xorchunk => s.ks = ksBlock s.key s.nonce (chunkCounter s.start s.ci.toNat)

/-- Tracks is the clause of the present position and the chunks done in OBUF. -/
theorem tracks_iff (s : State) :
    Tracks s ↔ DataAt s s.seq ∧
      (s.mode = .process → s.obuf = streamInOrder s.key s.nonce s.start s.dbuf (List.range s.ci.toNat)) := by
  constructor
  · intro h
    refine ⟨?_, h.output⟩
    cases hq : s.seq with
    | idle | inject => trivial
    | round t n => exact h.round t n hq
    | feedfwd => exact h.feedfwd hq
    | emit => exact h.emit hq
    | xorchunk => exact h.xorchunk hq
  · rintro ⟨hdata, hout⟩
    exact
      { round := fun t n hq => by rwa [hq] at hdata
        feedfwd := fun hq => by rwa [hq] at hdata
        emit := fun hq => by rwa [hq] at hdata
        xorchunk := fun hq => by rwa [hq] at hdata
        output := hout }

/-- An idle CORE has no chunk in flight (R35). -/
theorem MachineInv.tracks_of_idle {s : State} (h : MachineInv s) (hi : s.seq = .idle) : Tracks s := by
  refine (tracks_iff s).mpr ⟨by rw [hi]; trivial, fun hm => ?_⟩
  exact nomatch (h.idleClear hi).mode.symm.trans hm

/-! ## From an idle state -/

theorem tracks_startBlock (ctr : Word) (s : State) : Tracks (startBlock ctr s) :=
  (tracks_iff _).mpr ⟨trivial, nofun⟩

/-- At acceptance no chunk is done and OBUF is zero (R161). -/
theorem tracks_startProcess (ctr : Word) (data : List Byte) (s : State) : Tracks (startProcess ctr data s) :=
  (tracks_iff _).mpr ⟨trivial, fun _ => rfl⟩

/-- A step of an idle CORE leaves it idle or starts a command. -/
theorem IdleStep.idle_or_tracks {s t : State} (hi : s.seq = .idle) (hs : IdleStep s t) :
    t.seq = .idle ∨ Tracks t := by
  cases hs with
  | hardwareReset | reset | faults => exact .inl rfl
  | waits | status | refused | loadkey | loadnonce | processEmpty => exact .inl hi
  | block => exact .inr (tracks_startBlock _ _)
  | process => exact .inr (tracks_startProcess _ _ _)

/-! ## From a busy state -/

section Busy

variable {s : State} (h : Tracks s)

include h

theorem Tracks.doInject : Tracks (doInject s) := (tracks_iff _).mpr ⟨rfl, h.output⟩

/-- A quarter-round is one slot more; the eighth completes the double round and the tenth of these PERMUTE (R140). -/
theorem Tracks.qrStep {iter : Fin 10} {slot : Fin 8} (hq : s.seq = .round iter slot) :
    Tracks (qrStep slot iter s) := by
  refine (tracks_iff _).mpr ⟨?_, h.output⟩
  have hx : (Machine.qrStep slot iter s).x = slotsUpTo (slot.val + 1) (doubleRounds iter.val (initOf s)) := by
    rw [qrStep_x, h.round iter slot hq, slotsUpTo_succ]
  rw [qrStep_seq]
  rcases qrAdvance_cases iter slot with ⟨slot', hslot, hadv⟩ | ⟨iter', hlast, hiter, hadv⟩ | ⟨hlast, hiter, hadv⟩
  · rw [hadv, DataAt, hslot]
    exact hx
  · rw [hadv, DataAt, hiter, doubleRounds_succ, ← slotsUpTo_eight]
    rwa [hlast] at hx
  · rw [hadv, DataAt, permute_eq, doubleRounds_succ, ← slotsUpTo_eight]
    rwa [hlast, hiter] at hx

/-- FEEDFWD adds INIT of the latched counter, which the invariant says is the chunk's (R29, R141). -/
theorem Tracks.doFeedfwd (hinv : MachineInv s) (hq : s.seq = .feedfwd) : Tracks (doFeedfwd s) := by
  refine (tracks_iff _).mpr ⟨?_, h.output⟩
  have hj : s.j = chunkCounter s.start s.ci.toNat := hinv.latch (by rw [hq]; rfl)
  show feedfwdFn s.x (initMatrix s.key s.nonce s.j) = feedfwdFn (permute (initOf s)) (initOf s)
  rw [h.feedfwd hq, hj, initOf]

/-- EMIT answers and is idle, or leaves the keystream block of the chunk in KS (R135, R142). -/
theorem Tracks.doEmit (hq : s.seq = .emit) : (doEmit s).seq = .idle ∨ Tracks (doEmit s) := by
  cases hm : s.mode with
  | block => exact doEmit_block hm ▸ .inl rfl
  | process =>
    rw [doEmit_process hm]
    refine .inr ((tracks_iff _).mpr ⟨?_, h.output⟩)
    show serialize s.x = ksBlock s.key s.nonce (chunkCounter s.start s.ci.toNat)
    rw [h.emit hq, ksBlock_eq, initOf]

/-- The XOR of the chunk in flight is one chunk of STREAMFN more (R155, R161). -/
theorem Tracks.xoredBuffer_eq (hm : s.mode = .process) (hq : s.seq = .xorchunk) :
    xoredBuffer s = streamInOrder s.key s.nonce s.start s.dbuf (List.range (s.ci.toNat + 1)) := by
  rw [List.range_succ, streamInOrder_append, streamChunk, ← h.output hm, ← h.xorchunk hq, xoredBuffer]

/-- XORCHUNK answers and is idle, or goes on with one chunk more in OBUF (R161). -/
theorem Tracks.doXorchunk (hinv : MachineInv s) (hq : s.seq = .xorchunk) :
    (doXorchunk s).seq = .idle ∨ Tracks (doXorchunk s) := by
  by_cases hnext : (nextChunk s.ci).toNat < s.nchunks.toNat
  · have hm := hinv.process_of_xorchunk hq
    have hci : (nextChunk s.ci).toNat = s.ci.toNat + 1 := by
      have hindex := (hinv.processMode hm).index
      have hwidth := s.nchunks.isLt
      exact nextChunk_toNat (by omega)
    rw [doXorchunk_next hnext]
    refine .inr ((tracks_iff _).mpr ⟨trivial, fun _ => ?_⟩)
    rw [h.xoredBuffer_eq hm hq, hci]
  · exact doXorchunk_last hnext ▸ .inl rfl

theorem Tracks.step_busy {t : State} (hinv : MachineInv s) (hb : s.seq ≠ .idle) (hs : step s = .next t) :
    t.seq = .idle ∨ Tracks t := by
  rcases step_busy_cases hb hs with ⟨-, rfl⟩ | ⟨-, -, rfl⟩ | ⟨iter, slot, -, hq, rfl⟩ | ⟨-, hq, rfl⟩ | ⟨-, hq, rfl⟩ |
    ⟨-, hq, rfl⟩
  · exact .inl rfl
  · exact .inr h.doInject
  · exact .inr (h.qrStep hq)
  · exact .inr (h.doFeedfwd hinv hq)
  · exact h.doEmit hq
  · exact h.doXorchunk hinv hq

end Busy

/-- Settles O48: a step ends idle, where the kept machine invariant leaves nothing to track, or in the clause of the
next position. -/
theorem tracksKept : Obligations.TracksKept := by
  intro s t hinv h hs
  have hstep : t.seq = .idle ∨ Tracks t := by
    by_cases hi : s.seq = .idle
    · exact (idleStep_of_step hi hs).idle_or_tracks hi
    · exact h.step_busy hinv hi hs
  exact hstep.elim (invariantKept s t hinv hs).tracks_of_idle id

end Sys2Proof
end

section
/-! PERMUTE as a bijection (spec/42_block_function.md R144): QR can be undone (spec/41_quarter_round.md R111), so each
quarter-round on a matrix tells matrices apart, and there are finitely many of them. -/

namespace Sys2Proof

open Sys2Proof.Machine

/-- Matrices are equal word by word. -/
theorem stateMatrix_ext {m m' : StateMatrix} (h : ∀ i : Fin 16, m[i] = m'[i]) : m = m' :=
  Vector.ext fun k hk => h ⟨k, hk⟩

theorem finite_stateMatrix : Finite StateMatrix :=
  Finite.of_injective (fun (m : StateMatrix) (i : Fin 16) => m[i]) fun _ _ h => stateMatrix_ext (congrFun h)

/-- QR on different quadruples gives different ones (R111). -/
theorem eq_of_qr_eq {a b c d a' b' c' d' : Word} (h : qr a b c d = qr a' b' c' d') :
    (a, b, c, d) = (a', b', c', d') := by
  rw [← qrInverse_qr a b c d, h, qrInverse_qr]

theorem slotGroup_nodup (slot : Fin 8) : (slotGroup slot).indices.Nodup := by
  revert slot
  decide

/-- The words of the group are told apart by QR, every other word is left as it was (R112). -/
theorem qrSlot_injective (slot : Fin 8) : Function.Injective (qrSlot slot) := by
  intro m m' h
  obtain ⟨hwords, hothers⟩ := qrxWords m (slotGroup slot) (slotGroup_nodup slot)
  obtain ⟨hwords', hothers'⟩ := qrxWords m' (slotGroup slot) (slotGroup_nodup slot)
  change qrx m (slotGroup slot) = qrx m' (slotGroup slot) at h
  rw [h] at hwords hothers
  obtain ⟨ha, hb, hc, hd⟩ : _ ∧ _ ∧ _ ∧ _ := by
    simpa only [Prod.mk.injEq] using eq_of_qr_eq (hwords.symm.trans hwords')
  refine stateMatrix_ext fun i => ?_
  by_cases hi : i ∈ (slotGroup slot).indices
  · rcases Group.mem_indices.mp hi with rfl | rfl | rfl | rfl
    · exact ha
    · exact hb
    · exact hc
    · exact hd
  · exact (hothers i hi).symm.trans (hothers' i hi)

theorem qrSlot_bijective (slot : Fin 8) : Function.Bijective (qrSlot slot) :=
  have := finite_stateMatrix
  Finite.injective_iff_bijective.mp (qrSlot_injective slot)

theorem slotsUpTo_bijective (n : Nat) : Function.Bijective (slotsUpTo n) := by
  induction n with
  | zero => exact Function.bijective_id
  | succ n ih => exact (qrSlot_bijective (Fin.ofNat 8 n)).comp ih

theorem doubleRounds_bijective (n : Nat) : Function.Bijective (doubleRounds n) := by
  induction n with
  | zero => exact Function.bijective_id
  | succ n ih => exact (slotsUpTo_bijective 8).comp ih

theorem qr_zero : qr 0 0 0 0 = (0, 0, 0, 0) := by decide

/-- The all-zero matrix is fixed by every quarter-round. -/
theorem qrSlot_zero (slot : Fin 8) : qrSlot slot (Vector.replicate 16 0) = Vector.replicate 16 0 := by
  refine stateMatrix_ext fun i => ?_
  simp only [qrSlot, Fin.getElem_fin, qrx_getElem, Vector.getElem_replicate, qr_zero, ite_self]

theorem slotsUpTo_zeroMatrix (n : Nat) : slotsUpTo n (Vector.replicate 16 0) = Vector.replicate 16 0 := by
  induction n with
  | zero => rfl
  | succ n ih => rw [slotsUpTo, ih, qrSlot_zero]

theorem doubleRounds_zeroMatrix (n : Nat) : doubleRounds n (Vector.replicate 16 0) = Vector.replicate 16 0 := by
  induction n with
  | zero => rfl
  | succ n ih => rw [doubleRounds_succ, ih, ← slotsUpTo_eight, slotsUpTo_zeroMatrix]

/-- Word 0 of an initial matrix is a constant other than 0 (R23, R27). -/
theorem initMatrix_ne_zero (key : Vector Word 8) (nonce : Vector Word 3) (ctr : Word) :
    initMatrix key nonce ctr ≠ Vector.replicate 16 0 := by
  intro h
  have hword : constWord 0 = 0 := congrArg (fun m : StateMatrix => m[0]) h
  exact absurd hword (by decide)

/-- Settles O18: PERMUTE is ten double rounds, each the quarter-rounds of the eight slots. -/
theorem permuteBijective : Obligations.PermuteBijective :=
  ⟨doubleRounds_bijective 10, doubleRounds_zeroMatrix 10, initMatrix_ne_zero⟩

/-- Injection overwrites word 12 and nothing else tells the two matrices apart (R131). -/
theorem injectFn_congr {b b' : StateMatrix} (h : ∀ i : Fin 16, i ≠ 12 → b[i] = b'[i]) (ctr : Word) :
    injectFn b ctr = injectFn b' ctr := by
  refine stateMatrix_ext fun i => ?_
  by_cases h12 : i = 12
  · subst h12
    simp [injectFn]
  · have hne : 12 ≠ i.val := fun he => h12 (Fin.ext he.symm)
    simpa [injectFn, hne] using h i h12

/-- Settles O19: BLOCKFN reads the base matrix through the injection only. -/
theorem blockIgnoresWord12 : Obligations.BlockIgnoresWord12 := by
  intro b b' ctr h
  rw [blockFn, blockFn, injectFn_congr h]

end Sys2Proof
end

section
/-! The micro-operations of a block: what INJECT, FEEDFWD and EMIT do in every state (spec/42_block_function.md R139,
R141, R142), and the position after each of the 83 (R138). -/

namespace Sys2Proof

open Sys2Proof.Machine

section InitWords

variable (key : Vector Word 8) (nonce : Vector Word 3) (ctr : Word)

theorem initMatrix_key (i : Nat) (hi : i < 8) : (initMatrix key nonce ctr)[4 + i] = key[i] := by
  interval_cases i <;> rfl

theorem initMatrix_nonce (i : Nat) (hi : i < 3) : (initMatrix key nonce ctr)[13 + i] = nonce[i] := by
  interval_cases i <;> rfl

end InitWords

/-- Settles O34: the words of INIT with the chunk's counter. -/
theorem injectCompletes : Obligations.InjectCompletes := by
  intro s
  refine ⟨chunkCounter s.start s.ci.toNat, initMatrix s.key s.nonce (chunkCounter s.start s.ci.toNat), rfl,
    fun hfit => chunkCounter_toNat (by omega), rfl, rfl, rfl, rfl, initMatrix_key _ _ _, rfl, initMatrix_nonce _ _ _⟩

/-- A word of the feed-forward, on integers (R100, R133). -/
theorem feedfwdFn_toNat (p q : StateMatrix) (i : Nat) (hi : i < 16) :
    (feedfwdFn p q)[i].toNat = (p[i].toNat + q[i].toNat) % 2 ^ 32 := by
  rw [feedfwdFn_getElem, add32_toNat]

/-- Settles O36: the feed-forward word by word, with the words of INIT. -/
theorem feedfwdCompletes : Obligations.FeedfwdCompletes := by
  intro s
  have hword := feedfwdFn_toNat s.x (initMatrix s.key s.nonce s.j)
  refine ⟨feedfwdFn s.x (initMatrix s.key s.nonce s.j), rfl, hword 0 (by decide), hword 1 (by decide),
    hword 2 (by decide), hword 3 (by decide), fun i hi => ?_, hword 12 (by decide), fun i hi => ?_⟩
  · rw [hword (4 + i) (by omega), initMatrix_key _ _ _ i hi]
  · rw [hword (13 + i) (by omega), initMatrix_nonce _ _ _ i hi]

/-- Settles O37: the serialised X, by mode. -/
theorem emitCompletes : Obligations.EmitCompletes := by
  intro s
  refine ⟨serialize s.x, fun i j hi hj => ?_, fun hm => ?_, fun hm => ?_⟩
  · rw [serialize_byte s.x hi hj, byteAt_toNat_div]
  · exact congrArg _ (doEmit_block hm)
  · exact congrArg _ (doEmit_process hm)

/-- From the first position of the rounds, t iterations and n slots lead to (ROUND, t, n) (R138, R143). -/
theorem runSteps_round {s : State} (hr : s.hwReset = false) (hq : s.seq = .round 0 0) (t : Fin 10) (n : Fin 8) :
    runSteps (8 * t.val + n.val) s =
      .next { s with x := slotsUpTo n.val (doubleRounds t.val s.x), seq := .round t n } := by
  rw [runSteps_add n.val (runSteps_iterations hr hq t.val t.isLt)]
  exact runSteps_slots (s := { s with x := doubleRounds t.val s.x, seq := .round t 0 }) hr rfl n.val n.isLt

/-- EMIT's next position, by mode (R142). -/
theorem doEmit_seq (s : State) :
    (doEmit s).seq = match s.mode with
      | .block => .idle
      | .process => .xorchunk := by
  cases hm : s.mode with
  | block => rw [doEmit_block hm]; rfl
  | process => rw [doEmit_process hm]

/-- Settles O56: INJECT, the 80 quarter-rounds, FEEDFWD, EMIT. -/
theorem blockSchedule : Obligations.BlockSchedule := by
  intro s hq hr
  have hinject := runSteps_one (step_inject hr hq)
  have hround (t : Fin 10) (n : Fin 8) := (runSteps_add (8 * t.val + n.val) hinject).trans
    (runSteps_round (s := doInject s) hr rfl t n)
  have hpermute := (runSteps_add 80 hinject).trans (runSteps_permute (s := doInject s) hr rfl)
  have hemit := runSteps_snoc (runSteps_atEmit hr hq) (step_emit (s := atEmit s) hr rfl)
  exact ⟨fun t n => ⟨_, Nat.add_assoc .. ▸ hround t n, rfl⟩, ⟨_, hpermute, rfl⟩, ⟨_, runSteps_atEmit hr hq, rfl⟩,
    ⟨_, hemit, doEmit_seq (atEmit s)⟩⟩

end Sys2Proof
end

section
/-! STREAMFN byte by byte (spec/43_stream.md R150 to R164): whatever the order of the chunks, the output is the data XOR
one keystream, whose byte k depends on the key, the nonce, the start counter and k only. -/

namespace Sys2Proof

open Sys2Proof.Machine

/-! ## The range check -/

/-- R157: the longest data a start counter leaves room for. -/
theorem counterOverflow_eq_false_iff_le (start : Word) (len : Nat) :
    counterOverflow start len = false ↔ len ≤ 64 * (2 ^ 32 - start.toNat) := by
  have hstart := start.isLt
  rw [counterOverflow_eq_false, chunkCount]
  omega

/-- R154: the last chunk's counter is the largest. -/
theorem counterOverflow_eq_true_iff_exists (start : Word) (len : Nat) :
    counterOverflow start len = true ↔ ∃ i, i < (len + 63) / 64 ∧ 2 ^ 32 ≤ start.toNat + i := by
  rw [counterOverflow_eq_true, chunkCount]
  constructor
  · exact fun h => ⟨(len + 63) / 64 - 1, by omega, by omega⟩
  · rintro ⟨i, hi, hover⟩
    omega

/-- Settles O21: the last chunk decides the check. -/
theorem overflowExactly : Obligations.OverflowExactly := fun start len =>
  ⟨counterOverflow_eq_true_iff_exists start len, counterOverflow_eq_false_iff_le start len⟩

theorem counter_fits {start : Word} {len k : Nat} (ho : counterOverflow start len = false) (hk : k < len) :
    start.toNat + k / 64 < 2 ^ 32 := by
  rw [counterOverflow_eq_false_iff_le] at ho
  omega

/-! ## The keystream and the XOR with it -/

section Keystream

variable (key : Vector Word 8) (nonce : Vector Word 3) (start : Word)

/-- Byte k of the keystream: byte k mod 64 of the block of chunk k div 64 (R153). -/
def keystreamByte (k : Nat) : Byte := (ksBlock key nonce (chunkCounter start (k / 64)))[k % 64]'(by omega)

/-- The data XOR the keystream, byte by byte (R162). -/
def xorKeystream (data : List Byte) : List Byte := data.mapIdx fun k d => d ^^^ keystreamByte key nonce start k

theorem keystreamByte_of_fits {start : Word} {k : Nat} (h : start.toNat + k / 64 < 2 ^ 32) :
    keystreamByte key nonce start k =
      (ksBlock key nonce (BitVec.ofNat 32 (start.toNat + k / 64)))[k % 64]'(by omega) := by
  simp only [keystreamByte, chunkCounter, h, if_true]

@[simp] theorem xorKeystream_length (data : List Byte) : (xorKeystream key nonce start data).length = data.length :=
  List.length_mapIdx

@[simp] theorem xorKeystream_getElem (data : List Byte) {k : Nat}
    (hk : k < (xorKeystream key nonce start data).length) :
    (xorKeystream key nonce start data)[k] =
      data[k]'(xorKeystream_length key nonce start data ▸ hk) ^^^ keystreamByte key nonce start k :=
  List.getElem_mapIdx

theorem xorKeystream_getElem? (data : List Byte) (k : Nat) :
    (xorKeystream key nonce start data)[k]? = data[k]?.map (· ^^^ keystreamByte key nonce start k) :=
  List.getElem?_mapIdx

/-- R163: the same byte XORed twice. -/
theorem xorKeystream_xorKeystream (data : List Byte) :
    xorKeystream key nonce start (xorKeystream key nonce start data) = data :=
  List.ext_getElem (by simp) fun k _ _ => by simp

/-- R162: on zero bytes the keystream itself, which the data is XORed with. -/
theorem zipWith_xor_xorKeystream_zeros (data : List Byte) :
    List.zipWith (· ^^^ ·) data (xorKeystream key nonce start (List.replicate data.length 0)) =
      xorKeystream key nonce start data :=
  List.ext_getElem (by simp) fun k _ _ => by simp

/-- R164: m chunks further on, the keystream is that of a start counter advanced by m. -/
theorem keystreamByte_advance {m k : Nat} (h : start.toNat + m + k / 64 < 2 ^ 32) :
    keystreamByte key nonce (BitVec.ofNat 32 (start.toNat + m)) k = keystreamByte key nonce start (k + 64 * m) := by
  have hm : (BitVec.ofNat 32 (start.toNat + m)).toNat = start.toNat + m :=
    (BitVec.toNat_ofNat _ 32).trans (Nat.mod_eq_of_lt (by omega))
  have hdiv : (k + 64 * m) / 64 = m + k / 64 := by omega
  have hmod : (k + 64 * m) % 64 = k % 64 := by omega
  rw [keystreamByte_of_fits (h := by omega), keystreamByte_of_fits (h := by omega)]
  simp only [hm, hdiv, hmod, Nat.add_assoc]

/-- R164: after m whole chunks the rest is XORed as data of its own. -/
theorem xorKeystream_append {d1 d2 : List Byte} {m : Nat} (hm : d1.length = 64 * m)
    (hfits : ∀ k < d2.length, start.toNat + m + k / 64 < 2 ^ 32) :
    xorKeystream key nonce start (d1 ++ d2) =
      xorKeystream key nonce start d1 ++ xorKeystream key nonce (BitVec.ofNat 32 (start.toNat + m)) d2 := by
  rw [xorKeystream, List.mapIdx_append]
  refine congrArg (xorKeystream key nonce start d1 ++ ·) (List.mapIdx_eq_mapIdx_iff.mpr fun k hk => ?_)
  rw [keystreamByte_advance key nonce start (hfits k hk), hm]

/-- One chunk of STREAMFN: in the chunk data XOR keystream, elsewhere as before (R153). -/
theorem streamChunk_getElem? {data obuf : List Byte} (ho : obuf.length = data.length) (i k : Nat) :
    (streamChunk key nonce start data obuf i)[k]? =
      if k / 64 = i then (xorKeystream key nonce start data)[k]? else obuf[k]? := by
  rw [streamChunk, xorChunk_getElem? _ _ _ _ _ ho]
  by_cases hi : k / 64 = i
  · subst hi
    have hmod : k - 64 * (k / 64) = k % 64 := by omega
    by_cases hk : k < data.length
    · have hin : 64 * (k / 64) ≤ k ∧ k < 64 * (k / 64) + 64 ∧ k < data.length := ⟨by omega, by omega, hk⟩
      simp [hin, hmod, keystreamByte, xor8]
    · simp [hk, ho]
  · rw [dif_neg (by omega), if_neg hi]

/-- The chunks done so far are data XOR keystream, the others still zero (R161). -/
theorem streamInOrder_getElem? (data : List Byte) (order : List Nat) (k : Nat) :
    (streamInOrder key nonce start data order)[k]? =
      if k / 64 ∈ order then (xorKeystream key nonce start data)[k]? else (List.replicate data.length 0)[k]? := by
  induction order using List.reverseRecOn with
  | nil => rfl
  | append_singleton order i ih =>
    rw [streamInOrder_append, streamChunk_getElem? _ _ _ (streamInOrder_length _ _ _ _ _), ih]
    by_cases hi : k / 64 = i <;> simp [hi]

/-- An order that has every chunk gives the data XOR the keystream: the order does not matter (R62, R160). -/
theorem streamInOrder_of_perm {data : List Byte} {order : List Nat}
    (h : order.Perm (List.range (chunkCount data.length))) :
    streamInOrder key nonce start data order = xorKeystream key nonce start data := by
  refine List.ext_getElem? fun k => ?_
  rw [streamInOrder_getElem?]
  by_cases hk : k < data.length
  · have hmem : k / 64 ∈ order := by
      rw [h.mem_iff, List.mem_range, chunkCount]
      omega
    rw [if_pos hmem]
  · simp [hk]

/-- STREAMFN by the range check and the keystream (R155). -/
theorem streamFn_eq_some_iff {data out : List Byte} :
    streamFn key nonce start data = some out ↔
      counterOverflow start data.length = false ∧ xorKeystream key nonce start data = out := by
  cases ho : counterOverflow start data.length with
  | true => simp [streamFn_overflow key nonce ho]
  | false => simp [streamFn_accepted key nonce ho, streamInOrder_of_perm key nonce start (List.Perm.refl _)]

theorem streamFn_eq_none_iff {data : List Byte} :
    streamFn key nonce start data = none ↔ counterOverflow start data.length = true := by
  cases ho : counterOverflow start data.length with
  | true => simp [streamFn_overflow key nonce ho]
  | false => simp [streamFn_accepted key nonce ho]

end Keystream

/-! ## The statements about STREAMFN -/

/-- Settles O22: the output is the data XOR the keystream, whose counters fit. -/
theorem streamBytes : Obligations.StreamBytes := by
  intro key nonce start data
  refine ⟨(streamFn_eq_none_iff key nonce start).mpr, fun ho => ?_⟩
  refine ⟨xorKeystream key nonce start data, (streamFn_eq_some_iff key nonce start).mpr ⟨ho, rfl⟩,
    xorKeystream_length key nonce start data, fun k d hd => ?_⟩
  have hk : k < data.length := (List.getElem?_eq_some_iff.mp hd).1
  rw [xorKeystream_getElem?, hd, keystreamByte_of_fits key nonce (counter_fits ho hk)]
  rfl

/-- Settles O23: XOR with one keystream undoes itself, and the check reads the start and the length. -/
theorem streamSelfInverse : Obligations.StreamSelfInverse := by
  intro key nonce start data
  refine ⟨fun out h => ?_, fun data' hlen => ?_⟩
  · obtain ⟨ho, rfl⟩ := (streamFn_eq_some_iff key nonce start).mp h
    have hlen := xorKeystream_length key nonce start data
    exact ⟨hlen, (streamFn_eq_some_iff key nonce start).mpr
      ⟨hlen.symm ▸ ho, xorKeystream_xorKeystream key nonce start data⟩⟩
  · rw [streamFn_eq_none_iff, streamFn_eq_none_iff, hlen]

/-- Settles O24: both orders have every chunk. -/
theorem streamOrderFree : Obligations.StreamOrderFree := by
  intro key nonce start data order h
  rw [streamInOrder_of_perm key nonce start h, streamInOrder_of_perm key nonce start (List.Perm.refl _)]

/-- Settles O26: the second part's keystream is the whole's, counted from its own start. -/
theorem streamSplit : Obligations.StreamSplit := by
  intro key nonce start d1 d2 out hmod hne h
  obtain ⟨ho, rfl⟩ := (streamFn_eq_some_iff key nonce start).mp h
  have hpos : 0 < d2.length := List.length_pos_iff.mpr hne
  have hroom := (counterOverflow_eq_false_iff_le start _).mp ho
  rw [List.length_append] at ho hroom
  have hd1 : 64 * (d1.length / 64) = d1.length := by omega
  have hstart : (BitVec.ofNat 32 (start.toNat + d1.length / 64)).toNat = start.toNat + d1.length / 64 :=
    (BitVec.toNat_ofNat _ 32).trans (Nat.mod_eq_of_lt (by omega))
  refine ⟨_, _, (streamFn_eq_some_iff key nonce _).mpr ⟨?_, rfl⟩, (streamFn_eq_some_iff key nonce _).mpr ⟨?_, rfl⟩, ?_⟩
  · rw [counterOverflow_eq_false_iff_le]
    omega
  · rw [counterOverflow_eq_false_iff_le, hstart]
    omega
  · exact xorKeystream_append key nonce start hd1.symm (by omega)

/-- Settles O27: zero bytes XOR the keystream are the keystream. -/
theorem streamKeystream : Obligations.StreamKeystream := by
  intro key nonce start n z h
  obtain ⟨ho, rfl⟩ := (streamFn_eq_some_iff key nonce start).mp h
  rw [List.length_replicate] at ho
  refine ⟨by simp, fun k hk => ?_, fun data hlen => ?_⟩
  · rw [xorKeystream_getElem?, List.getElem?_replicate, if_pos hk, Option.map_some,
      keystreamByte_of_fits key nonce (counter_fits ho hk)]
    exact congrArg some BitVec.zero_xor
  · subst hlen
    rw [zipWith_xor_xorKeystream_zeros]
    exact (streamFn_eq_some_iff key nonce start).mpr ⟨ho, rfl⟩

end Sys2Proof
end

section
/-! XORCHUNK in every state whose buffers are of one length (spec/43_stream.md R161). -/

namespace Sys2Proof

open Sys2Proof.Machine

section XoredBuffer

variable {s : State} (hlen : s.obuf.length = s.dbuf.length)

include hlen

/-- A byte of the chunk becomes data XOR keystream (R153). -/
theorem xoredBuffer_inside {j : Nat} {d : Byte} (hj : j < 64) (hd : s.dbuf[64 * s.ci.toNat + j]? = some d) :
    (xoredBuffer s)[64 * s.ci.toNat + j]? = some (d ^^^ s.ks[j]) := by
  obtain ⟨hk, rfl⟩ := List.getElem?_eq_some_iff.mp hd
  rw [xoredBuffer, xorChunk_getElem? _ _ _ _ _ hlen, dif_pos ⟨by omega, by omega, hk⟩]
  simp only [Nat.add_sub_cancel_left, xor8]

/-- A byte outside the chunk's 64 stays (R161). -/
theorem xoredBuffer_outside {k : Nat} (hk : k < 64 * s.ci.toNat ∨ 64 * s.ci.toNat + 64 ≤ k) :
    (xoredBuffer s)[k]? = s.obuf[k]? := by
  rw [xoredBuffer, xorChunk_getElem? _ _ _ _ _ hlen, dif_neg (by omega)]

end XoredBuffer

/-- Settles O38: the buffer of the chunk's XOR, then the two endings. -/
theorem xorchunkCompletes : Obligations.XorchunkCompletes := by
  intro s hlen hci
  have hnext : (nextChunk s.ci).toNat = s.ci.toNat + 1 := nextChunk_toNat hci
  refine ⟨xoredBuffer s, xorChunk_length _ _ _ _, fun j d hj hd => xoredBuffer_inside hlen hj hd,
    fun k hk => xoredBuffer_outside hlen hk, fun hmore => ⟨nextChunk s.ci, hnext, ?_⟩, fun hlast => ?_⟩
  · exact congrArg Host.Outcome.next (doXorchunk_next (by omega))
  · exact congrArg Host.Outcome.next (doXorchunk_last (by omega))

end Sys2Proof
end

section
/-! A request on any number of lanes (spec/43_stream.md R160, spec/60_exceptions.md R233). A lane computes its chunk's
block as a CORE of its own would, XORCHUNK writes that chunk's bytes and no other, and so OBUF is at any time the output
of the chunks done so far, in the order in which the lanes did them. -/

namespace Sys2Proof

open Sys2Proof.Machine

/-! ## One lane -/

/-- A lane as a CORE with one block in flight, whose counter is that of the lane's chunk. -/
def laneCore (r : LaneRun) (l : Lane) : State :=
  { State.reset with
    key := r.key, nonce := r.nonce, start := chunkCounter r.start l.chunk, x := l.x, j := l.j, ks := l.ks,
    seq := l.seq }

theorem initOf_laneCore (r : LaneRun) (l : Lane) :
    initOf (laneCore r l) = initMatrix r.key r.nonce (chunkCounter r.start l.chunk) :=
  congrArg (initMatrix r.key r.nonce) (chunkCounter_zero _)

/-- What a lane's position says of its registers (R29, R143). -/
structure LaneTracks (r : LaneRun) (l : Lane) : Prop where
  data : Tracks (laneCore r l)
  latch : l.seq.computing = true → l.j = chunkCounter r.start l.chunk

/-- A lane reads nothing of what the lanes write (R160). -/
theorem LaneTracks.withOutput {r : LaneRun} {l : Lane} (h : LaneTracks r l) (obuf : List Byte) (lanes : List Lane) :
    LaneTracks { r with obuf := obuf, lanes := lanes } l :=
  ⟨h.data, h.latch⟩

theorem laneTracks_take (r : LaneRun) (queue : List Nat) : LaneTracks r (Lane.take queue) := by
  cases queue <;> exact ⟨(tracks_iff _).mpr ⟨trivial, nofun⟩, nofun⟩

/-- A lane's micro-operation leads from its position's clause to the next one's (R138 to R142). -/
theorem LaneTracks.laneMicro {r : LaneRun} {l : Lane} (h : LaneTracks r l) : LaneTracks r (laneMicro r l) := by
  cases hq : l.seq with
  | idle => simpa only [Machine.laneMicro, hq] using h
  | inject =>
    simp only [Machine.laneMicro, hq]
    exact ⟨(tracks_iff _).mpr ⟨(initOf_laneCore r l).symm, nofun⟩, fun _ => rfl⟩
  | round iter slot =>
    simp only [Machine.laneMicro, hq]
    exact ⟨h.data.qrStep (s := laneCore r l) hq, fun _ => h.latch (hq ▸ rfl)⟩
  | feedfwd =>
    simp only [Machine.laneMicro, hq]
    have hx : l.x = permute (initOf (laneCore r l)) := h.data.feedfwd hq
    have hj : l.j = chunkCounter r.start l.chunk := h.latch (hq ▸ rfl)
    refine ⟨(tracks_iff _).mpr ⟨?_, nofun⟩, fun _ => hj⟩
    show feedfwdFn l.x (initMatrix r.key r.nonce l.j) =
      feedfwdFn (permute (initOf (laneCore r l))) (initOf (laneCore r l))
    rw [hx, hj, initOf_laneCore]
  | emit =>
    simp only [Machine.laneMicro, hq]
    have hx : l.x = feedfwdFn (permute (initOf (laneCore r l))) (initOf (laneCore r l)) := h.data.emit hq
    exact ⟨(tracks_iff _).mpr ⟨congrArg serialize hx, nofun⟩, nofun⟩
  | xorchunk => simpa only [Machine.laneMicro, hq] using laneTracks_take r l.queue

/-- At XORCHUNK a lane has its chunk's block in KS (R135). -/
theorem LaneTracks.ks_eq {r : LaneRun} {l : Lane} (h : LaneTracks r l) (hq : l.seq = .xorchunk) :
    l.ks = ksBlock r.key r.nonce (chunkCounter r.start l.chunk) :=
  (h.data.xorchunk hq).trans (congrArg (ksBlock r.key r.nonce) (chunkCounter_zero _))

/-- The chunks a lane has still to write: the one in flight and its queue. -/
def Machine.Lane.pending (l : Lane) : List Nat := if l.seq = .idle then [] else l.chunk :: l.queue

theorem pending_take (queue : List Nat) : (Lane.take queue).pending = queue := by
  cases queue <;> rfl

/-- A micro-operation writes the chunk in flight, or writes nothing and leaves the lane its chunks (R161). -/
theorem laneOutput_cases {r : LaneRun} {l : Lane} (h : LaneTracks r l) :
    (laneOutput r l = r.obuf ∧ (laneMicro r l).pending = l.pending) ∨
      (laneOutput r l = streamChunk r.key r.nonce r.start r.dbuf r.obuf l.chunk ∧
        l.pending = l.chunk :: (laneMicro r l).pending) := by
  cases hq : l.seq with
  | idle | inject | feedfwd | emit => simp [laneOutput, laneMicro, Lane.pending, hq]
  | round iter slot =>
    have hbusy := (Seq.ne_of_computing (qrAdvance_computing iter slot)).1
    simp [laneOutput, laneMicro, Lane.pending, hq, hbusy]
  | xorchunk =>
    have hpending : l.pending = l.chunk :: l.queue := by simp [Lane.pending, hq]
    refine .inr ⟨?_, ?_⟩
    · simp only [laneOutput, hq, streamChunk, h.ks_eq hq]
    · simp only [hpending, laneMicro, hq, pending_take]

/-! ## All lanes -/

/-- A property of the request that every lane's step keeps holds after every schedule. -/
theorem lanesRun_induction {P : LaneRun → Prop} {r : LaneRun} (h : P r) (hstep : ∀ r n, P r → P (laneStep r n))
    (schedule : List Nat) : P (lanesRun r schedule) :=
  List.foldlRecOn schedule laneStep h fun r hr n _ => hstep r n hr

theorem lanesRun_shared (r : LaneRun) (schedule : List Nat) :
    (lanesRun r schedule).key = r.key ∧ (lanesRun r schedule).nonce = r.nonce ∧
      (lanesRun r schedule).start = r.start ∧ (lanesRun r schedule).dbuf = r.dbuf :=
  lanesRun_induction (P := fun r' => r'.key = r.key ∧ r'.nonce = r.nonce ∧ r'.start = r.start ∧ r'.dbuf = r.dbuf)
    ⟨rfl, rfl, rfl, rfl⟩ (fun r' n h => by
      obtain ⟨hkey, hnonce, hstart, hdbuf⟩ := laneStep_shared r' n
      rwa [hkey, hnonce, hstart, hdbuf]) schedule

/-- The lanes at work on the given chunks: each lane's registers follow its position, and OBUF is the output of the
chunks that no lane has still to write, in the order in which they were done. -/
structure LanesWork (given : List Nat) (r : LaneRun) : Prop where
  lanes : ∀ l ∈ r.lanes, LaneTracks r l
  output : ∃ finished : List Nat, (finished ++ r.lanes.flatMap Lane.pending).Perm given ∧
    r.obuf = streamInOrder r.key r.nonce r.start r.dbuf finished

theorem LanesWork.laneStep {given : List Nat} {r : LaneRun} (h : LanesWork given r) (n : Nat) :
    LanesWork given (laneStep r n) := by
  rcases laneStep_cases r n with ⟨-, hsame⟩ | ⟨before, l, behind, hlanes, hstep⟩
  · rwa [hsame]
  obtain ⟨htracks, finished, hperm, hout⟩ := h
  rw [hlanes] at htracks hperm
  rw [hstep]
  have hl : LaneTracks r l := htracks l (by simp)
  refine ⟨fun l' hl' => ?_, ?_⟩
  · have hcases : l' ∈ before ++ l :: behind ∨ l' = laneMicro r l := by
      simp only [List.mem_append, List.mem_cons] at hl' ⊢
      tauto
    rcases hcases with hmem | rfl
    · exact (htracks l' hmem).withOutput _ _
    · exact hl.laneMicro.withOutput _ _
  · rcases laneOutput_cases hl with ⟨hobuf, hpending⟩ | ⟨hobuf, hpending⟩
    · refine ⟨finished, ?_, hobuf.trans hout⟩
      simpa [hpending] using hperm
    · refine ⟨finished ++ [l.chunk], ?_, ?_⟩
      · refine .trans ?_ hperm
        simp only [List.flatMap_append, List.flatMap_cons, hpending, List.append_assoc, List.cons_append,
          List.nil_append]
        exact List.perm_middle.symm.append_left finished
      · rw [streamInOrder_append, ← hout]
        exact hobuf

theorem lanesWork_start (key : Vector Word 8) (nonce : Vector Word 3) (start : Word) (data : List Byte)
    (given : List (List Nat)) : LanesWork given.flatten (lanesStart key nonce start data given) := by
  refine ⟨fun l hl => ?_, [], ?_, rfl⟩
  · obtain ⟨queue, -, rfl⟩ := List.mem_map.mp hl
    exact laneTracks_take _ queue
  · have hpending : (given.map Lane.take).flatMap Lane.pending = given.flatten := by
      simp only [List.flatMap_map, pending_take, List.flatMap_id']
    simp [lanesStart, hpending]

/-- When every lane is idle no chunk is left. -/
theorem LanesWork.obuf_of_done {given : List Nat} {r : LaneRun} (h : LanesWork given r) (hdone : r.done = true) :
    ∃ finished : List Nat, finished.Perm given ∧ r.obuf = streamInOrder r.key r.nonce r.start r.dbuf finished := by
  obtain ⟨finished, hperm, hout⟩ := h.output
  have hidle : ∀ l ∈ r.lanes, l.pending = [] := by
    simp only [LaneRun.done, List.all_eq_true, beq_iff_eq] at hdone
    exact fun l hl => if_pos (hdone l hl)
  rw [List.flatMap_eq_nil_iff.mpr hidle, List.append_nil] at hperm
  exact ⟨finished, hperm, hout⟩

/-! ## Every request can be done -/

/-- The micro-operations from a position to the end of its chunk (R138, R161). -/
def Seq.stepsLeft : Seq → Nat
  | .idle => 0
  | .inject => 84
  | .round iter slot => 83 - 8 * iter.val - slot.val
  | .feedfwd => 3
  | .emit => 2
  | .xorchunk => 1

theorem stepsLeft_qrAdvance (iter : Fin 10) (slot : Fin 8) :
    (qrAdvance iter slot).stepsLeft < (Seq.round iter slot).stepsLeft := by
  rcases qrAdvance_cases iter slot with ⟨slot', hslot, hadv⟩ | ⟨iter', hlast, hiter, hadv⟩ | ⟨hlast, hiter, hadv⟩ <;>
    simp only [hadv, Seq.stepsLeft, Fin.val_zero] <;> omega

/-- The micro-operations a lane has still to take. -/
def Machine.Lane.stepsLeft (l : Lane) : Nat := l.seq.stepsLeft + 84 * l.queue.length

theorem stepsLeft_take (queue : List Nat) : (Lane.take queue).stepsLeft = 84 * queue.length := by
  cases queue with
  | nil => rfl
  | cons c rest =>
    show 84 + 84 * rest.length = 84 * (rest.length + 1)
    omega

theorem stepsLeft_laneMicro (r : LaneRun) {l : Lane} (hbusy : l.seq ≠ .idle) :
    (laneMicro r l).stepsLeft < l.stepsLeft := by
  cases hq : l.seq with
  | idle => exact absurd hq hbusy
  | inject | feedfwd | emit => simp [laneMicro, Lane.stepsLeft, Seq.stepsLeft, hq]
  | round iter slot => simpa [laneMicro, Lane.stepsLeft, hq] using stepsLeft_qrAdvance iter slot
  | xorchunk =>
    simp only [laneMicro, hq, stepsLeft_take]
    simp [Lane.stepsLeft, Seq.stepsLeft, hq]

/-- The micro-operations all lanes together have still to take. -/
def Machine.LaneRun.stepsLeft (r : LaneRun) : Nat := (r.lanes.map Lane.stepsLeft).sum

/-- A request that is not done has a lane whose step brings its end nearer (R160). -/
theorem exists_laneStep_stepsLeft {r : LaneRun} (h : r.done = false) : ∃ n, (laneStep r n).stepsLeft < r.stepsLeft := by
  simp only [LaneRun.done, List.all_eq_false, beq_iff_eq] at h
  obtain ⟨l, hmem, hbusy⟩ := h
  obtain ⟨before, behind, hlanes⟩ := List.append_of_mem hmem
  refine ⟨before.length, ?_⟩
  have hless := stepsLeft_laneMicro r hbusy
  simp only [laneStep, LaneRun.stepsLeft, hlanes]
  simpa using hless

theorem exists_schedule_done (r : LaneRun) : ∃ schedule, (lanesRun r schedule).done = true := by
  cases hdone : r.done with
  | true => exact ⟨[], hdone⟩
  | false =>
    obtain ⟨n, hless⟩ := exists_laneStep_stepsLeft hdone
    obtain ⟨schedule, hschedule⟩ := exists_schedule_done (laneStep r n)
    exact ⟨n :: schedule, hschedule⟩
  termination_by r.stepsLeft

/-- Settles O25: a request that is done has done its chunks in some order, and the order does not matter. -/
theorem lanesAgree : Obligations.LanesAgree := by
  intro key nonce start data given hgiven
  refine ⟨fun schedule hdone => ?_, exists_schedule_done _⟩
  have hwork := lanesRun_induction (lanesWork_start key nonce start data given) (fun _ n h => h.laneStep n) schedule
  obtain ⟨finished, hperm, hout⟩ := hwork.obuf_of_done hdone
  obtain ⟨hkey, hnonce, hstart, hdbuf⟩ := lanesRun_shared (lanesStart key nonce start data given) schedule
  rw [hout, hkey, hnonce, hstart, hdbuf]
  exact streamOrderFree key nonce start data finished (hperm.trans hgiven)

end Sys2Proof
end

section
/-! What each host command does when it runs in an idle CORE (spec/44_commands.md R171 to R176), a hardware reset and
the end of a run (R177, R180). -/

namespace Sys2Proof

open Sys2Proof.Machine

/-- Settles O10. -/
theorem hardwareResetStrikes : Obligations.HardwareResetStrikes := fun _ hr => step_hwReset hr

/-- Settles O12: the empty stream is an incomplete command. -/
theorem endIsQuiet : Obligations.EndIsQuiet := by
  rintro s ⟨hi, hcmd, hr⟩
  have hd : decodeBytes s.cmd = .incomplete := by rw [hcmd]; rfl
  exact step_incomplete hr hi hd

/-- Settles O28: RESET asks for nothing but the idle CORE. -/
theorem resetCompletes : Obligations.ResetCompletes := fun _ hi =>
  congrArg Host.Outcome.next (whenIdle_accept _ hi)

/-! ## STATUS -/

/-- The status byte bit by bit (R33). -/
theorem statusView_getLsbD (s : State) (i : Nat) :
    (statusView s).getLsbD i =
      if i = 0 then s.keyv else if i = 1 then s.noncev else decide (4 ≤ i) && s.fault.getLsbD (i - 4) := by
  simp only [statusView, BitVec.getLsbD_append]
  match i with
  | 0 | 1 | 2 | 3 => simp
  | i + 4 => simp

/-- The upper half of the status byte (R33). -/
theorem statusView_toNat_div (s : State) : (statusView s).toNat / 16 = s.fault.toNat := by
  have hshift : (statusView s >>> 4).setWidth 4 = s.fault := by
    apply BitVec.eq_of_getLsbD_eq
    intro i hi
    have h1 : 4 + i ≠ 1 := by omega
    simp [statusView_getLsbD, hi, h1]
  have hbyte := (statusView s).isLt
  rw [← hshift, BitVec.toNat_setWidth, BitVec.toNat_ushiftRight, Nat.shiftRight_eq_div_pow]
  omega

/-- Settles O29: the response carries the STATUS view. -/
theorem statusCompletes : Obligations.StatusCompletes := fun s hi =>
  ⟨statusView s, congrArg Host.Outcome.next (whenIdle_accept _ hi), statusView_getLsbD s 0, statusView_getLsbD s 1,
    statusView_getLsbD s 2, statusView_getLsbD s 3, statusView_toNat_div s⟩

/-! ## The loads -/

/-- Key word i on integers (R70). -/
theorem keyWords_toNat (k : Vector Byte 32) (i : Nat) (hi : i < 8) :
    (keyWords k)[i].toNat =
      k[4 * i].toNat + 256 * k[4 * i + 1].toNat + 65536 * k[4 * i + 2].toNat + 16777216 * k[4 * i + 3].toNat := by
  simp only [keyWords, Vector.getElem_ofFn, le32_toNat]

/-- Nonce word i on integers (R71). -/
theorem nonceWords_toNat (n : Vector Byte 12) (i : Nat) (hi : i < 3) :
    (nonceWords n)[i].toNat =
      n[4 * i].toNat + 256 * n[4 * i + 1].toNat + 65536 * n[4 * i + 2].toNat + 16777216 * n[4 * i + 3].toNat := by
  simp only [nonceWords, Vector.getElem_ofFn, le32_toNat]

/-- Settles O30. -/
theorem loadkeyCompletes : Obligations.LoadkeyCompletes := fun k _ hi hf =>
  ⟨keyWords k, congrArg Host.Outcome.next (whenOperational_accept _ hi hf), keyWords_toNat k⟩

/-- Settles O31. -/
theorem loadnonceCompletes : Obligations.LoadnonceCompletes := fun n _ hi hf =>
  ⟨nonceWords n, congrArg Host.Outcome.next (whenOperational_accept _ hi hf), nonceWords_toNat n⟩

/-! ## BLOCK and PROCESS -/

/-- Settles O32: every check of R170 is passed. -/
theorem blockCompletes : Obligations.BlockCompletes := fun _ _ hi hf hkeyv hnoncev =>
  congrArg Host.Outcome.next (whenLoaded_accept _ hi hf (loaded_eq_true.mpr ⟨hkeyv, hnoncev⟩))

/-- A request of no chunk is answered at once (R161). -/
theorem acceptProcess_empty (ctr : Word) (s : State) : acceptProcess ctr [] s = respondOk [] s := rfl

/-- A request with data whose last counter is in range starts the chunk loop (R154, R161). -/
theorem acceptProcess_start {ctr : Word} {data : List Byte} (s : State) (hne : data ≠ [])
    (hrange : ctr.toNat + (chunkCount data.length - 1) ≤ 2 ^ 32 - 1) :
    counterOverflow ctr data.length = false ∧ acceptProcess ctr data s = startProcess ctr data s := by
  have hlen : 0 < data.length := List.length_pos_iff.mpr hne
  rcases acceptProcess_cases ctr data s with ⟨ho, -⟩ | ⟨-, hn, -⟩ | ⟨ho, -, h⟩
  · rw [counterOverflow_eq_true] at ho
    omega
  · rw [chunkCount] at hn
    omega
  · exact ⟨ho, h⟩

/-- Settles O33: past the loaded check, the empty answer or the start of the chunk loop. -/
theorem processCompletes : Obligations.ProcessCompletes := by
  intro ctr data s hi hf hkeyv hnoncev
  have hexec : exec (.process ctr data) s = .next (acceptProcess ctr data s) :=
    congrArg Host.Outcome.next (whenLoaded_accept _ hi hf (loaded_eq_true.mpr ⟨hkeyv, hnoncev⟩))
  refine ⟨fun hnil => ?_, fun hne hrange => ?_⟩
  · subst hnil
    rw [hexec, acceptProcess_empty]
    rfl
  · obtain ⟨ho, hstart⟩ := acceptProcess_start s hne hrange
    have hfits := chunkCount_fits ho
    refine ⟨BitVec.ofNat 33 (chunkCount data.length), toNat_ofNat33 (by omega), ?_⟩
    rw [hexec, hstart]
    rfl

end Sys2Proof
end

section
/-! The busy hold (spec/44_commands.md R179): commands wait while a block is in flight, and it always ends. -/

namespace Sys2Proof

open Sys2Proof.Machine

/-! ## What a step of a busy CORE keeps -/

section Hold

variable {s t : State} (hb : s.seq ≠ .idle) (hs : step s = .next t)

include hb hs

/-- Neither a micro-operation nor a hardware reset consumes a command byte. -/
theorem step_busy_cmd : t.cmd = s.cmd := by
  rcases step_busy_cases hb hs with ⟨-, rfl⟩ | ⟨-, -, rfl⟩ | ⟨iter, slot, -, -, rfl⟩ | ⟨-, -, rfl⟩ | ⟨-, -, rfl⟩ |
    ⟨-, -, rfl⟩
  all_goals simp

/-- No step asserts hardware reset. -/
theorem step_busy_hwReset (hr : s.hwReset = false) : t.hwReset = false := by
  rcases step_busy_cases hb hs with ⟨-, rfl⟩ | ⟨-, -, rfl⟩ | ⟨iter, slot, -, -, rfl⟩ | ⟨-, -, rfl⟩ | ⟨-, -, rfl⟩ |
    ⟨-, -, rfl⟩
  all_goals simp [hr]

end Hold

/-- Settles O43: each command waits by the first check of R170; a step runs a micro-operation or serves the reset. -/
theorem busyHold : Obligations.BusyHold := by
  intro s hb
  refine ⟨⟨?_, ?_, fun k => ?_, fun n => ?_, fun ctr => ?_, fun ctr data => ?_⟩, fun t hs => ?_⟩
  · exact congrArg Host.Outcome.next (whenIdle_busy _ hb)
  · exact congrArg Host.Outcome.next (whenIdle_busy _ hb)
  · exact congrArg Host.Outcome.next (whenOperational_busy _ hb)
  · exact congrArg Host.Outcome.next (whenOperational_busy _ hb)
  · exact congrArg Host.Outcome.next (whenLoaded_busy _ hb)
  · exact congrArg Host.Outcome.next (whenLoaded_busy _ hb)
  · exact ⟨step_busy_cmd hb hs, fun hr => step_busy_registers hb hr hs⟩

/-! ## The hold ends -/

/-- The micro-operations a CORE has still to take: those of the chunk in flight, and 84 for each chunk behind it
(R138, R161). -/
def Machine.State.stepsLeft (s : State) : Nat := s.seq.stepsLeft + 84 * (s.nchunks.toNat - s.ci.toNat - 1)

theorem Seq.stepsLeft_le (q : Seq) : q.stepsLeft ≤ 84 := by
  cases q with
  | idle | inject | feedfwd | emit | xorchunk => decide
  | round iter slot =>
    simp only [Seq.stepsLeft]
    omega

theorem stepsLeft_le (s : State) : s.stepsLeft ≤ 84 * max 1 (s.nchunks.toNat - s.ci.toNat) := by
  have hseq := s.seq.stepsLeft_le
  simp only [State.stepsLeft]
  omega

/-- A micro-operation that stays in its chunk brings the end nearer as its position does. -/
theorem stepsLeft_lt_of_seq {s t : State} (hn : t.nchunks = s.nchunks) (hci : t.ci = s.ci)
    (hq : t.seq.stepsLeft < s.seq.stepsLeft) : t.stepsLeft < s.stepsLeft := by
  simp only [State.stepsLeft, hn, hci]
  omega

/-- EMIT answers and nothing is left, or XORCHUNK is left of the chunk (R142). -/
theorem stepsLeft_doEmit {s : State} (hq : s.seq = .emit) : (doEmit s).stepsLeft < s.stepsLeft := by
  cases hm : s.mode with
  | block =>
    rw [doEmit_block hm]
    simp [State.stepsLeft, Seq.stepsLeft, hq]
  | process =>
    rw [doEmit_process hm]
    exact stepsLeft_lt_of_seq rfl rfl (by simp [Seq.stepsLeft, hq])

section Ends

variable {s : State} (h : MachineInv s)

include h

/-- XORCHUNK answers and nothing is left, or one chunk less is left (R161). -/
theorem MachineInv.stepsLeft_doXorchunk (hq : s.seq = .xorchunk) : (Machine.doXorchunk s).stepsLeft < s.stepsLeft := by
  by_cases hnext : (nextChunk s.ci).toNat < s.nchunks.toNat
  · have hindex := (h.processMode (h.process_of_xorchunk hq)).index
    have hwidth := s.nchunks.isLt
    have hci : (nextChunk s.ci).toNat = s.ci.toNat + 1 := nextChunk_toNat (by omega)
    rw [doXorchunk_next hnext]
    simp only [State.stepsLeft, Seq.stepsLeft, hq, hci]
    omega
  · rw [doXorchunk_last hnext]
    simp [State.stepsLeft, Seq.stepsLeft, hq]

theorem MachineInv.stepsLeft_step {t : State} (hr : s.hwReset = false) (hb : s.seq ≠ .idle) (hs : step s = .next t) :
    t.stepsLeft < s.stepsLeft := by
  rcases step_busy_cases hb hs with ⟨hr', -⟩ | ⟨-, hq, rfl⟩ | ⟨iter, slot, -, hq, rfl⟩ | ⟨-, hq, rfl⟩ | ⟨-, hq, rfl⟩ |
    ⟨-, hq, rfl⟩
  · exact nomatch hr.symm.trans hr'
  · exact stepsLeft_lt_of_seq rfl rfl (by simp [Seq.stepsLeft, hq])
  · exact stepsLeft_lt_of_seq rfl rfl (hq ▸ stepsLeft_qrAdvance iter slot)
  · exact stepsLeft_lt_of_seq rfl rfl (by simp [Seq.stepsLeft, hq])
  · exact stepsLeft_doEmit hq
  · exact h.stepsLeft_doXorchunk hq

end Ends

/-- Every step keeps the invariant and takes one of the micro-operations left, until the CORE is idle. -/
theorem MachineInv.exists_idle {s : State} (h : MachineInv s) (hr : s.hwReset = false) :
    ∃ n t, n ≤ s.stepsLeft ∧ runSteps n s = .next t ∧ t.seq = .idle := by
  by_cases hi : s.seq = .idle
  · exact ⟨0, s, Nat.zero_le _, rfl, hi⟩
  · obtain ⟨u, hu⟩ := step_next s
    have hless := h.stepsLeft_step hr hi hu
    obtain ⟨n, t, hn, hrun, ht⟩ := (h.step_busy hi hu).exists_idle (step_busy_hwReset hi hu hr)
    exact ⟨n + 1, t, by omega, (runSteps_succ n hu).trans hrun, ht⟩
  termination_by s.stepsLeft

/-- Settles O58: the micro-operations left are at most 84 for each chunk not yet done. -/
theorem busyEnds : Obligations.BusyEnds := by
  intro s h hr _
  obtain ⟨n, t, hn, hrun, ht⟩ := h.exists_idle hr
  exact ⟨n, t, hn.trans (stepsLeft_le s), hrun, ht⟩

end Sys2Proof
end

section
/-! Faults and refusals (spec/60_exceptions.md R220 to R230): where each fault strikes and what it leaves, and the
answer of the faulted state. -/

namespace Sys2Proof

open Sys2Proof.Machine

/-! ## Fault entry and the Faulted answer -/

/-- R228: the fault code and one response byte, and every other piece of the CORE's state at its reset value. -/
theorem faultEntry_eq (code : BitVec 4) (s : State) :
    faultEntry code s =
      { State.reset with fault := code, cmd := s.cmd, rsp := s.rsp ++ [rspFault code], hwReset := s.hwReset } := rfl

theorem rspFault_codeCounterOverflow : rspFault codeCounterOverflow = 0x81 := by decide

theorem rspFault_codeNotLoaded : rspFault codeNotLoaded = 0x82 := by decide

theorem rspFault_codeBadCommand : rspFault codeBadCommand = 0x83 := by decide

theorem rspFault_codeFaulted : rspFault codeFaulted = 0x8f := by decide

/-- R224: one response byte and nothing else. -/
theorem answerFaulted_eq (s : State) : answerFaulted s = { s with rsp := s.rsp ++ [0x8f] } := by
  rw [answerFaulted, respondFault, rspFault_codeFaulted]

/-! ## Where the faults strike -/

theorem loaded_eq_false {s : State} : loaded s = false ↔ s.keyv = false ∨ s.noncev = false :=
  Bool.and_eq_false_iff

/-- The range check of R154 comes first. -/
theorem acceptProcess_overflow {ctr : Word} {data : List Byte} (s : State)
    (ho : counterOverflow ctr data.length = true) :
    acceptProcess ctr data s = faultEntry codeCounterOverflow s := if_pos ho

/-- R77: the illegal byte alone is consumed, before the checks of R170. -/
theorem step_opcode_illegal {s : State} {op : Byte} {rest : List Byte} (hr : s.hwReset = false) (hi : s.seq = .idle)
    (hcmd : s.cmd = op :: rest) (hop : op ∉ opcodes) : step s = .next (badCommand { s with cmd := rest }) :=
  step_illegal hr hi (by rw [hcmd, decodeBytes_illegal rest hop])

/-! ## The four statements -/

/-- Settles O40: past the loaded check, the range check fails at the chunk given. -/
theorem counterOverflowTaken : Obligations.CounterOverflowTaken := by
  intro ctr data s hi hf hkeyv hnoncev hover
  have ho : counterOverflow ctr data.length = true := (counterOverflow_eq_true_iff_exists ctr data.length).mpr hover
  apply congrArg Host.Outcome.next
  rw [whenLoaded_accept _ hi hf (loaded_eq_true.mpr ⟨hkeyv, hnoncev⟩), acceptProcess_overflow s ho, faultEntry_eq,
    rspFault_codeCounterOverflow]
  rfl

/-- Settles O39: the loaded check does not look at what it guards, so BLOCK and PROCESS fail it alike. -/
theorem notLoadedTaken : Obligations.NotLoadedTaken := by
  intro s hi hf hunloaded
  have htaken (accept : State) : whenLoaded s accept =
      { State.reset with fault := 2, cmd := s.cmd, rsp := s.rsp ++ [0x82], hwReset := s.hwReset } := by
    rw [whenLoaded_notLoaded accept hi hf (loaded_eq_false.mpr hunloaded), faultEntry_eq, rspFault_codeNotLoaded]
    rfl
  exact ⟨fun _ => congrArg Host.Outcome.next (htaken _), fun _ _ => congrArg Host.Outcome.next (htaken _)⟩

/-- Settles O41: fault entry on the stream behind the byte. -/
theorem badCommandTaken : Obligations.BadCommandTaken := by
  intro s op rest hr hi hf hcmd hop
  rw [step_opcode_illegal hr hi hcmd hop, badCommand, whenOperational_accept (s := { s with cmd := rest }) _ hi hf,
    faultEntry_eq, rspFault_codeBadCommand, hr]
  rfl

/-- Settles O42: the faulted check comes before every other check of an idle CORE. -/
theorem faultedRefusal : Obligations.FaultedRefusal := by
  intro s hi hf
  have hload (accept : State) : whenOperational s accept = { s with rsp := s.rsp ++ [0x8f] } :=
    (whenOperational_faulted accept hi hf).trans (answerFaulted_eq s)
  have hcompute (accept : State) : whenLoaded s accept = { s with rsp := s.rsp ++ [0x8f] } :=
    (whenLoaded_faulted accept hi hf).trans (answerFaulted_eq s)
  refine ⟨fun k => ?_, fun n => ?_, fun ctr => ?_, fun ctr data => ?_, fun op rest hr hcmd hop => ?_⟩
  · exact congrArg Host.Outcome.next (hload _)
  · exact congrArg Host.Outcome.next (hload _)
  · exact congrArg Host.Outcome.next (hcompute _)
  · exact congrArg Host.Outcome.next (hcompute _)
  · rw [step_opcode_illegal hr hi hcmd hop, badCommand, whenOperational_faulted (s := { s with cmd := rest }) _ hi hf,
      answerFaulted_eq]

end Sys2Proof
end

section
/-! The sequence of micro-operations does not depend on data (spec/70_reset_and_hazards.md R262, spec/10_state.md R34):
every micro-operation reads the next position off SEQ, MODE, NCHUNKS and CI alone. -/

namespace Sys2Proof

open Sys2Proof.Machine

/-- The two states stand at the same point of the schedule, whatever else they hold. -/
structure SameSchedule (s t : State) : Prop where
  seq : t.seq = s.seq
  mode : t.mode = s.mode
  nchunks : t.nchunks = s.nchunks
  ci : t.ci = s.ci

section Operations

variable {s t : State} (h : SameSchedule s t)

include h

theorem SameSchedule.doInject : SameSchedule (doInject s) (doInject t) := by
  constructor <;> simp [h.mode, h.nchunks, h.ci]

theorem SameSchedule.qrStep (slot : Fin 8) (iter : Fin 10) : SameSchedule (qrStep slot iter s) (qrStep slot iter t) := by
  constructor <;> simp [h.mode, h.nchunks, h.ci]

theorem SameSchedule.doFeedfwd : SameSchedule (doFeedfwd s) (doFeedfwd t) := by
  constructor <;> simp [h.mode, h.nchunks, h.ci]

/-- EMIT branches on MODE alone (R142). -/
theorem SameSchedule.doEmit : SameSchedule (doEmit s) (doEmit t) := by
  cases hm : s.mode with
  | block =>
    rw [doEmit_block hm, doEmit_block (h.mode.trans hm)]
    constructor <;> simp [h.mode]
  | process =>
    rw [doEmit_process hm, doEmit_process (h.mode.trans hm)]
    constructor <;> simp [h.mode, h.nchunks, h.ci]

/-- XORCHUNK branches on CI and NCHUNKS alone (R161). -/
theorem SameSchedule.doXorchunk : SameSchedule (doXorchunk s) (doXorchunk t) := by
  have hbranch : (nextChunk t.ci).toNat < t.nchunks.toNat ↔ (nextChunk s.ci).toNat < s.nchunks.toNat := by
    rw [h.ci, h.nchunks]
  by_cases hnext : (nextChunk s.ci).toNat < s.nchunks.toNat
  · rw [doXorchunk_next hnext, doXorchunk_next (hbranch.mpr hnext)]
    constructor <;> simp [h.mode, h.nchunks, h.ci]
  · rw [doXorchunk_last hnext, doXorchunk_last (mt hbranch.mp hnext)]
    constructor <;> simp

/-- SEQ selects one micro-operation for both states, and it keeps them together. -/
theorem SameSchedule.exists_step_busy (hb : s.seq ≠ .idle) (hs : s.hwReset = false) (ht : t.hwReset = false) :
    ∃ u v, step s = .next u ∧ step t = .next v ∧ SameSchedule u v := by
  cases hq : s.seq with
  | idle => exact absurd hq hb
  | inject => exact ⟨_, _, step_inject hs hq, step_inject ht (h.seq.trans hq), h.doInject⟩
  | round iter slot => exact ⟨_, _, step_round hs hq, step_round ht (h.seq.trans hq), h.qrStep slot iter⟩
  | feedfwd => exact ⟨_, _, step_feedfwd hs hq, step_feedfwd ht (h.seq.trans hq), h.doFeedfwd⟩
  | emit => exact ⟨_, _, step_emit hs hq, step_emit ht (h.seq.trans hq), h.doEmit⟩
  | xorchunk => exact ⟨_, _, step_xorchunk hs hq, step_xorchunk ht (h.seq.trans hq), h.doXorchunk⟩

end Operations

/-- Settles O53: each micro-operation keeps two states at the same point of the schedule together. -/
theorem scheduleDataIndependent : Obligations.ScheduleDataIndependent := by
  intro s s' t t' hb hr hr' hseq hmode hnchunks hci hs hs'
  obtain ⟨u, u', hu, hu', hsame⟩ :=
    SameSchedule.exists_step_busy ⟨hseq, hmode, hnchunks, hci⟩ hb hr hr'
  obtain rfl := Host.Outcome.next.inj (hs.symm.trans hu)
  obtain rfl := Host.Outcome.next.inj (hs'.symm.trans hu')
  exact ⟨hsame.seq, hsame.mode, hsame.nchunks, hsame.ci⟩

end Sys2Proof
end
